-- ==== Sys2Proof/Word.lean ====
section
/-! DEFINITION. The word types of QRENC: bytes and 32-bit host words (00_scope.md R11, R12, 20_memory.md R80). -/

namespace Sys2Proof

/-- A byte: a buffer byte, a module byte, a GF(256) element, an immediate (R112, R150). -/
abbrev Byte := BitVec 8

/-- A 32-bit host data word: a CSR value or a command word (R80, R110). -/
abbrev Word := BitVec 32

/-- A 16-bit byte offset inside QRENC's window (R80). -/
abbrev Offset := BitVec 16

end Sys2Proof
end

