-- ==== Sys2Proof/Syntax.lean ====
section
/-! DEFINITION. The 21 commands of QRENC-CMD revision 1 (30_encoding.md R113, opcode_table.json). -/

namespace Sys2Proof

/-- One constructor per row of the opcode map (R113). An immediate is an unsigned byte (R112): IMM_A first, then
IMM_B. A value outside a command's legal range is still a command, which completes with BAD_OPERAND (R112). -/
inductive Instr where
  /-- NOP, R140. -/
  | nop
  /-- CLEAR, R141. -/
  | clear
  /-- GF_MUL a, b, R151. -/
  | gfMul (a b : Byte)
  /-- GF_EXP k, R152. -/
  | gfExp (k : Byte)
  /-- GF_LOG a, R153. -/
  | gfLog (a : Byte)
  /-- GF_INV a, R155. -/
  | gfInv (a : Byte)
  /-- RS_GEN n, R154. -/
  | rsGen (n : Byte)
  /-- RS_DIV, R156. -/
  | rsDiv
  /-- RS_SYND n, R157. -/
  | rsSynd (n : Byte)
  /-- RS_ENCODE_ALL, R158. -/
  | rsEncodeAll
  /-- INTERLEAVE, R180. -/
  | interleave
  /-- MX_FUNC, R190. -/
  | mxFunc
  /-- MX_PLACE, R200. -/
  | mxPlace
  /-- MASK_EVAL k, R230. -/
  | maskEval (k : Byte)
  /-- MASK_SEARCH, R231. -/
  | maskSearch
  /-- MASK_APPLY k, R233. -/
  | maskApply (k : Byte)
  /-- BCH_FMT k, e, R252. -/
  | bchFmt (k e : Byte)
  /-- BCH_VER v, R256. -/
  | bchVer (v : Byte)
  /-- FMT_WRITE k, R254. -/
  | fmtWrite (k : Byte)
  /-- VER_WRITE, R255. -/
  | verWrite
  /-- ENCODE, R270. -/
  | encode
  deriving DecidableEq, Repr

end Sys2Proof
end

