-- ==== Sys2Proof/WellFormed.lean ====
section
/-! DEFINITION. Which 32-bit command words are legal (30_encoding.md R110, R111, R113, R114), written from the
format table alone and not from the decoder. Every term of Instr is well formed: its immediates are bytes by type. -/

namespace Sys2Proof

/-- The three formats of R111. -/
inductive Format where
  /-- No immediate: bits[31:8] must be 0. -/
  | n
  /-- One immediate, in bits[15:8]: bits[31:16] must be 0. -/
  | i8
  /-- Two immediates, in bits[15:8] and bits[23:16]: bits[31:24] must be 0. -/
  | i16
  deriving DecidableEq, Repr

/-- The opcode map of R113: the format of each listed OP, and none for a reserved OP (R114). -/
def formatOf (op : Nat) : Option Format :=
  if op ∈ [0x00, 0x01, 0x11, 0x13, 0x18, 0x20, 0x21, 0x29, 0x33, 0x3F] then some .n
  else if op ∈ [0x09, 0x0A, 0x0B, 0x10, 0x12, 0x28, 0x2A, 0x31, 0x32] then some .i8
  else if op ∈ [0x08, 0x30] then some .i16
  else none

/-- The first bit above the fields a format uses: from there up the word must be 0 (R111). -/
def Format.usedBits : Format → Nat
  | .n => 8
  | .i8 => 16
  | .i16 => 24

/-- A command word is legal when its OP is listed and its format's reserved bits are all 0 (R114). -/
def legalWord (w : Word) : Bool :=
  match formatOf (w.toNat % 256) with
  | none => false
  | some f => w.toNat < 2 ^ f.usedBits

/-- The format of each command (R113). -/
def Instr.format : Instr → Format
  | .nop | .clear | .rsDiv | .rsEncodeAll | .interleave | .mxFunc | .mxPlace | .maskSearch | .verWrite | .encode => .n
  | .gfExp _ | .gfLog _ | .gfInv _ | .rsGen _ | .rsSynd _ | .maskEval _ | .maskApply _ | .bchVer _ | .fmtWrite _ => .i8
  | .gfMul _ _ | .bchFmt _ _ => .i16

end Sys2Proof
end

