-- ==== Sys2Proof/Decode.lean ====
section
/-! DEFINITION. Decoding a command word (total, rejecting by name) and encoding a command, both written from
30_encoding.md R110, R111 and R113. -/

namespace Sys2Proof

/-- Why a word is illegal (R114). -/
inductive DecodeError where
  /-- The OP is not in R113's table. -/
  | reservedOpcode (op : Byte)
  /-- A bit the OP's format reserves is 1. -/
  | reservedBits (op : Byte)
  deriving DecidableEq, Repr

/-- OP, bits[7:0] (R110). -/
def opField (w : Word) : Byte := w.extractLsb' 0 8

/-- IMM_A, bits[15:8] (R110). -/
def immA (w : Word) : Byte := w.extractLsb' 8 8

/-- IMM_B, bits[23:16] (R110). -/
def immB (w : Word) : Byte := w.extractLsb' 16 8

/-- Z, bits[31:24] (R110). -/
def zField (w : Word) : Byte := w.extractLsb' 24 8

/-- Format N (R111): A, B and Z must be 0. -/
def decodeN (w : Word) (i : Instr) : Except DecodeError Instr :=
  if immA w = 0 ∧ immB w = 0 ∧ zField w = 0 then .ok i else .error (.reservedBits (opField w))

/-- Format I8 (R111): B and Z must be 0. -/
def decodeI8 (w : Word) (i : Byte → Instr) : Except DecodeError Instr :=
  if immB w = 0 ∧ zField w = 0 then .ok (i (immA w)) else .error (.reservedBits (opField w))

/-- Format I16 (R111): Z must be 0. -/
def decodeI16 (w : Word) (i : Byte → Byte → Instr) : Except DecodeError Instr :=
  if zField w = 0 then .ok (i (immA w) (immB w)) else .error (.reservedBits (opField w))

/-- The decoder: the OP alone selects the command and its format (R110, R113). -/
def decode (w : Word) : Except DecodeError Instr :=
  match (opField w).toNat with
  | 0x00 => decodeN w .nop
  | 0x01 => decodeN w .clear
  | 0x08 => decodeI16 w .gfMul
  | 0x09 => decodeI8 w .gfExp
  | 0x0A => decodeI8 w .gfLog
  | 0x0B => decodeI8 w .gfInv
  | 0x10 => decodeI8 w .rsGen
  | 0x11 => decodeN w .rsDiv
  | 0x12 => decodeI8 w .rsSynd
  | 0x13 => decodeN w .rsEncodeAll
  | 0x18 => decodeN w .interleave
  | 0x20 => decodeN w .mxFunc
  | 0x21 => decodeN w .mxPlace
  | 0x28 => decodeI8 w .maskEval
  | 0x29 => decodeN w .maskSearch
  | 0x2A => decodeI8 w .maskApply
  | 0x30 => decodeI16 w .bchFmt
  | 0x31 => decodeI8 w .bchVer
  | 0x32 => decodeI8 w .fmtWrite
  | 0x33 => decodeN w .verWrite
  | 0x3F => decodeN w .encode
  | _ => .error (.reservedOpcode (opField w))

/-- The command word an instruction of an opcode table row is read from: the table's bits are the 32-bit word itself
(R110), and bits above `nbits` are 0. -/
def tableWord (nbits w : Nat) : Word := BitVec.ofNat 32 (w % 2 ^ nbits)

/-- The instruction the decoder reads from the bits `w`, numbered as spec/opcode_table.json numbers them. -/
def decodeTableWord (nbits w : Nat) : Option Instr := (decode (tableWord nbits w)).toOption

/-- The OP of each command (R113). -/
def opcode : Instr → Byte
  | .nop => 0x00
  | .clear => 0x01
  | .gfMul _ _ => 0x08
  | .gfExp _ => 0x09
  | .gfLog _ => 0x0A
  | .gfInv _ => 0x0B
  | .rsGen _ => 0x10
  | .rsDiv => 0x11
  | .rsSynd _ => 0x12
  | .rsEncodeAll => 0x13
  | .interleave => 0x18
  | .mxFunc => 0x20
  | .mxPlace => 0x21
  | .maskEval _ => 0x28
  | .maskSearch => 0x29
  | .maskApply _ => 0x2A
  | .bchFmt _ _ => 0x30
  | .bchVer _ => 0x31
  | .fmtWrite _ => 0x32
  | .verWrite => 0x33
  | .encode => 0x3F

/-- The immediates of a command as (IMM_B, IMM_A), 0 where the format has none (R111). -/
def immediates : Instr → Byte × Byte
  | .gfMul a b => (b, a)
  | .bchFmt k e => (e, k)
  | .gfExp a | .gfLog a | .gfInv a | .rsGen a | .rsSynd a | .maskEval a | .maskApply a | .bchVer a | .fmtWrite a => (0, a)
  | .nop | .clear | .rsDiv | .rsEncodeAll | .interleave | .mxFunc | .mxPlace | .maskSearch | .verWrite | .encode => (0, 0)

/-- The command word of a command (R110, R111): Z = 0, then B, A and OP. -/
def encode (i : Instr) : Word :=
  (0 : Byte) ++ (immediates i).1 ++ (immediates i).2 ++ opcode i

end Sys2Proof
end

