-- ==== Sys2Proof/Config.lean ====
section
/-! DEFINITION. What one build of QRENC fixes (the parameters of 00_scope.md R10) and the one value the spec
leaves free (a result CSR read while busy, 70_reset_and_hazards.md R321). The ROM tables stand in Machine/Tables.lean. -/

namespace Sys2Proof

/-- MASK_LANES (R10, R232): how many mask scorers a build has; it changes no value any rule computes. -/
inductive MaskLanes where
  | one
  | eight
  deriving DecidableEq, Repr

/-- SCORE_RESERVED (R10, R222): what the reserved, unwritten modules hold while a mask is scored. -/
inductive ScoreReserved where
  | masked
  | formatDrawn
  deriving DecidableEq, Repr

/-- RULE3_MODE (R10, R225): how a finder-like core with light margins is counted. -/
inductive Rule3Mode where
  | window11
  | coreEitherSide
  deriving DecidableEq, Repr

/-- RULE3_OUTSIDE (R10, R225): how rule N3 reads a module outside the line. -/
inductive Rule3Outside where
  | light
  | absent
  deriving DecidableEq, Repr

/-- RULE4_ROUNDING (R10, R226). -/
inductive Rule4Rounding where
  | floor
  | ceilMinusOne
  deriving DecidableEq, Repr

/-- The parameters of R10 that are arguments of the model. CMD_LATENCY is no field: the agenda of the state admits
every interleaving (R330). QRENC_BASE and QRENC_IRQ_LINE are the platform's (R80, R287). -/
structure Params where
  maskLanes : MaskLanes
  scoreReserved : ScoreReserved
  rule3Mode : Rule3Mode
  rule3Outside : Rule3Outside
  rule4Rounding : Rule4Rounding
  versionInfoXor : BitVec 18
  deriving DecidableEq, Repr

/-- The default values of R10. -/
def Params.default : Params where
  maskLanes := .eight
  scoreReserved := .masked
  rule3Mode := .window11
  rule3Outside := .light
  rule4Rounding := .floor
  versionInfoXor := 0x00000#18

/-- FREE VALUE (log 4): what the n-th read of a result CSR while BUSY = 1 returns (R321, 93 U5). It has no body:
nothing constrains it. -/
opaque Config.busyDraw : Nat → Word

end Sys2Proof
end

