-- ==== Sys2Proof/Machine/State.lean ====
section
/-! DEFINITION. The state of QRENC (10_state.md R30) as plain data, its reset value (70_reset_and_hazards.md R310),
and the reasons a step can stop (60_exceptions.md R286). -/

namespace Sys2Proof.Machine

open Sys2Proof

/-- Why the model stops: the three model-only faults of R286. All three are SAFE: the hardware goes on with a value
or an effect the spec leaves unspecified, and the model gives it none. -/
inductive Fault where
  /-- A host read (Machine/Bus.lean) or an engine read (any command) of a RAM byte that was never written, or whose
  write was aborted (R60, R312). Safe. -/
  | uninitRead
  /-- A host access that completes with ERROR (R87), raised by Machine/Bus.lean. Safe. -/
  | busError
  /-- A host access to DCW, ECC, CW or the matrix RAM while BUSY = 1 (R320), raised by Machine/Bus.lean. Safe. -/
  | hazard
  deriving DecidableEq, Repr

/-- Why a step has no meaning. -/
inductive Refusal where
  /-- A command with no meaning yet; no arm of exec raises it in this model. Safe. -/
  | notModelled (mnemonic : String)
  /-- A second bus master drives QRENC (R300, 93 U19), raised by Machine/Engine.lean's scheduler. Safe. -/
  | secondBusMaster
  deriving DecidableEq, Repr

/-- The RAM bytes written since reset, as (window offset, byte) pairs (R60, R81). An offset that is not listed has its
shadow written bit at 0 and reads as nothing (log 3). -/
abbrev Memory := List Host.Cell

/-- The in-flight command latch (R61, R117). -/
structure Latch where
  /-- The command word. -/
  word : Word
  /-- CONFIG.VERSION at acceptance, `V` of R16. -/
  version : BitVec 6
  /-- CONFIG.ECL at acceptance, `E` of R16. -/
  ecl : BitVec 2
  /-- ARG0 at acceptance, `A0` of R16. -/
  a0 : BitVec 16
  /-- ARG1 at acceptance, `A1` of R16. -/
  a1 : BitVec 16
  /-- ARG2 at acceptance, `A2` of R16. -/
  a2 : BitVec 16
  deriving DecidableEq, Repr

/-- The registers and flags that commands write and CLEAR zeroes (R35, R36, R40 to R43, R141). -/
structure Results where
  synz : Bool
  eccDone : Bool
  ilvDone : Bool
  funcDone : Bool
  placed : Bool
  searched : Bool
  masked : Bool
  fmtDone : Bool
  verDone : Bool
  gfRes : Byte
  genDeg : BitVec 6
  gen : Vector Byte 31
  synd : Vector Byte 30
  chosenMask : BitVec 3
  chosenValid : Bool
  fmtWord : BitVec 15
  verWord : BitVec 18
  cwLen : BitVec 12
  mxVersion : BitVec 6
  penRule : Vector (Vector Word 4) 8
  penTotal : Vector Word 8
  deriving DecidableEq, Repr

/-- Every result register and stage flag 0: after reset (R310) and after CLEAR (R141). -/
def Results.zero : Results where
  synz := false
  eccDone := false
  ilvDone := false
  funcDone := false
  placed := false
  searched := false
  masked := false
  fmtDone := false
  verDone := false
  gfRes := 0
  genDeg := 0
  gen := Vector.replicate 31 0
  synd := Vector.replicate 30 0
  chosenMask := 0
  chosenValid := false
  fmtWord := 0
  verWord := 0
  cwLen := 0
  mxVersion := 0
  penRule := Vector.replicate 8 (Vector.replicate 4 0)
  penTotal := Vector.replicate 8 0

/-- The size of a host access (R80). -/
inductive AccessSize where
  | byte
  | half
  | word
  deriving DecidableEq, Repr

/-- The direction of a host access, and a write's data, of which the low `size` bytes count (R80). -/
inductive AccessOp where
  | read
  | write (wdata : Word)
  deriving DecidableEq, Repr

/-- One host access (R80). -/
structure Access where
  addr : Offset
  size : AccessSize
  op : AccessOp
  deriving DecidableEq, Repr

/-- What happens next, from outside the engine's own sequencing (log 1). -/
inductive Event where
  /-- The host makes one bus access (R9, R80). -/
  | host (a : Access)
  /-- The engine gets its step (R9, R118). -/
  | engine
  /-- The platform's reset input (R310). -/
  | hardReset
  /-- A bus master other than the host makes an access (R300). -/
  | secondMaster (a : Access)
  deriving DecidableEq, Repr

/-- How the slave port answered the last completed host access (R80). -/
inductive Reply where
  /-- No access has completed since hard reset. -/
  | none
  /-- A write completed with OK. -/
  | written
  /-- A read completed with OK and this rdata, zero-extended from the access's size. -/
  | data (rdata : Word)
  deriving DecidableEq, Repr

/-- The state of QRENC. STATUS.BUSY is `latch.isSome` (R35, R61) and STATUS.ERR is `errCode ≠ 0` (R35); neither is
stored twice (log 7). -/
structure State where
  /-- CTRL.IE (R33). -/
  ie : Bool
  /-- CMD (R34). -/
  cmd : Word
  /-- STATUS.DONE (R35). -/
  done : Bool
  /-- STATUS.OVR (R35). -/
  ovr : Bool
  /-- ERRCODE.CODE (R37). -/
  errCode : Byte
  /-- ERRCODE.OP (R37). -/
  errOp : Byte
  /-- CONFIG.VERSION (R38). -/
  version : BitVec 6
  /-- CONFIG.ECL (R38). -/
  ecl : BitVec 2
  /-- ARG0 (R39). -/
  arg0 : BitVec 16
  /-- ARG1 (R39). -/
  arg1 : BitVec 16
  /-- ARG2 (R39). -/
  arg2 : BitVec 16
  /-- The result registers, SYNZ and the stage flags (R35, R36, R40 to R43). -/
  res : Results
  /-- The in-flight command latch (R61). -/
  latch : Option Latch
  /-- DCW, ECC, CW and the matrix RAM, with their shadow written bits (R55, R56, R60). -/
  mem : Memory
  /-- The build's parameters (R10), which no step changes (log 6). -/
  params : Params
  /-- The model's own: what happens next, oldest first (log 1). -/
  agenda : List Event
  /-- The model's own: the answer to the last host access (log 10). -/
  reply : Reply
  /-- The model's own: how many free values have been drawn (log 5). -/
  draws : Nat
  deriving DecidableEq, Repr

/-- The machine right after hard reset (R310, reset values of R31), built with the default parameters (R10). -/
def State.reset : State where
  ie := false
  cmd := 0
  done := false
  ovr := false
  errCode := 0
  errOp := 0
  version := 1
  ecl := 1
  arg0 := 0
  arg1 := 0
  arg2 := 0
  res := Results.zero
  latch := none
  mem := []
  params := Params.default
  agenda := []
  reply := .none
  draws := 0

end Sys2Proof.Machine
end

