-- ==== Sys2Proof/Machine/Ops.lean ====
section
/-! DEFINITION. The named operations over memory and over the command handshake: the window's RAM map (20_memory.md
R81, R85), byte and range accesses, acceptance (30_encoding.md R117), completion with success or with an error
(R118, R119, 60_exceptions.md R283, R289), its acknowledgement (R290) and the reset of every CSR (R310, R311). -/

namespace Sys2Proof.Machine

open Sys2Proof

/-! ### The RAM map -/

/-- The window offset of DCW[0] (R81). -/
def dcwBase : Nat := 0x1000

/-- The window offset of ECC[0] (R81). -/
def eccBase : Nat := 0x2000

/-- The window offset of CW[0] (R81). -/
def cwBase : Nat := 0x3000

/-- The window offset of M[0][0] (R81, R85). -/
def matBase : Nat := 0x8000

/-- BUF_SIZE (R10): the bytes of each of DCW, ECC and CW (R55). -/
def bufSize : Nat := 4096

/-- MATRIX_STRIDE (R10): the row stride of the matrix RAM, for every version (R85). -/
def matStride : Nat := 177

/-- The bytes of the matrix RAM (R56). -/
def matSize : Nat := 31329

/-- The window offset of module (r, c) (R85). -/
def matAddr (r c : Nat) : Nat := matBase + matStride * r + c

/-- The row of the module byte at a window offset of the matrix region (R85). -/
def matRow (a : Nat) : Nat := (a - matBase) / matStride

/-- The column of the module byte at a window offset of the matrix region (R85). -/
def matCol (a : Nat) : Nat := (a - matBase) % matStride

/-- The offset is a byte of one of the three buffers (R81). -/
def isBuffer (a : Nat) : Bool := dcwBase ≤ a && a < cwBase + bufSize

/-- The offset is a byte of the matrix RAM (R81). -/
def isMatrix (a : Nat) : Bool := matBase ≤ a && a < matBase + matSize

/-- The offset is a module of the symbol of side `side` (R56). -/
def inSymbol (side a : Nat) : Bool := isMatrix a && matRow a < side && matCol a < side

/-! ### Memory -/

/-- The one canonical form: offsets strictly rising, so that no offset is listed twice. An unlisted offset reads as
nothing (R60), so no entry can equal what an unlisted offset reads as. -/
abbrev Memory.wf (m : Memory) : Prop := m.Pairwise fun x y => x.1 < y.1

/-- Read one byte: none where its shadow written bit is 0 (R60). -/
def Memory.read : Memory → Nat → Option Byte
  | [], _ => none
  | (x, b) :: m, a => if x = a then some b else Memory.read m a

/-- Write one byte, which sets its shadow written bit (R60). -/
def Memory.write : Memory → Nat → Byte → Memory
  | [], a, v => [(a, v)]
  | (x, b) :: m, a, v =>
    if a < x then (a, v) :: (x, b) :: m
    else if a = x then (a, v) :: m
    else (x, b) :: Memory.write m a v

/-- The first `n` cells of a memory, if their offsets are a, a + 1, ..., a + n − 1. -/
def Memory.consecutive : Memory → Nat → Nat → Option (List Byte)
  | _, _, 0 => some []
  | [], _, _ + 1 => none
  | (x, b) :: m, a, n + 1 =>
    if x = a then (Memory.consecutive m (a + 1) n).map (b :: ·) else none

/-- Read the `n` bytes at offsets a, ..., a + n − 1: none if any of them was never written. -/
def Memory.readRange (m : Memory) (a n : Nat) : Option (List Byte) :=
  Memory.consecutive (m.dropWhile fun c => c.1 < a) a n

/-- The cells of a run of bytes stored at offsets a, a + 1, ... -/
def Memory.run : Nat → List Byte → Memory
  | _, [] => []
  | a, b :: bs => (a, b) :: Memory.run (a + 1) bs

/-- Write a run of bytes at offsets a, a + 1, ... -/
def Memory.writeRange (m : Memory) (a : Nat) (bs : List Byte) : Memory :=
  (m.filter fun c => c.1 < a) ++ Memory.run a bs ++ (m.filter fun c => a + bs.length ≤ c.1)

/-- Write single bytes, in order. -/
def Memory.writeEach (m : Memory) (ws : List Host.Cell) : Memory :=
  ws.foldl (fun m w => m.write w.1 w.2) m

/-- Change the listed bytes in place: each byte `b` at offset `a` becomes `f a b`. -/
def Memory.modify (m : Memory) (f : Nat → Byte → Byte) : Memory :=
  m.map fun c => (c.1, f c.1 c.2)

/-- A run of `len` offsets from `start`. -/
structure Span where
  start : Nat
  len : Nat
  deriving DecidableEq, Repr

/-- The offset lies in one of the spans. -/
def inSpans (spans : List Span) (a : Nat) : Bool :=
  spans.any fun p => p.start ≤ a && a < p.start + p.len

/-- Set the shadow written bit of every byte of the spans to 0 (R312). -/
def Memory.erase (m : Memory) (spans : List Span) : Memory :=
  m.filter fun c => !inSpans spans c.1

/-! ### Issue and completion -/

/-- The error codes of R280 (0x00 is success). -/
inductive ErrCode where
  | illegalCmd
  | badConfig
  | badOperand
  | gfZero
  | noGenerator
  | sequence
  | placeMismatch
  deriving DecidableEq, Repr

/-- The numbers of R280. -/
def errNumber : ErrCode → Byte
  | .illegalCmd => 0x01
  | .badConfig => 0x02
  | .badOperand => 0x03
  | .gfZero => 0x04
  | .noGenerator => 0x05
  | .sequence => 0x06
  | .placeMismatch => 0x07

/-- What a command comes to (R118, R119): all its writes, one error and no writes, or a model-only fault. -/
inductive CmdOutcome where
  | ok (s : State)
  | error (e : ErrCode)
  | fault (f : Fault)
  deriving DecidableEq, Repr

/-- Check, then commit (R119): the first error condition that holds, or else the command's effect. -/
def checked (c : Option ErrCode) (r : CmdOutcome) : CmdOutcome :=
  match c with
  | some e => .error e
  | none => r

/-- Two steps of one command, one after the other (R270). -/
def CmdOutcome.andThen (r : CmdOutcome) (k : State → CmdOutcome) : CmdOutcome :=
  match r with
  | .ok s => k s
  | .error e => .error e
  | .fault f => .fault f

/-- What the engine reads of a range of bytes, or the UninitRead fault (R98). -/
def withBytes (m : Memory) (a n : Nat) (k : List Byte → CmdOutcome) : CmdOutcome :=
  match m.readRange a n with
  | some bs => k bs
  | none => .fault .uninitRead

/-- The engine writes result registers and stage flags (R118). -/
def State.setRes (s : State) (r : Results) : State := { s with res := r }

/-- The engine writes result registers, stage flags and RAM bytes (R118). No command writes anything else (R62, R119)
but its completion record. -/
def State.commit (s : State) (r : Results) (m : Memory) : State := { s with res := r, mem := m }

/-- Completion of a command, QRENC's counterpart of trap entry (R118, R283, R289): ERRCODE is written, BUSY falls
because the latch empties, and DONE rises. -/
def State.complete (s : State) (op code : Byte) : State :=
  { s with errCode := code, errOp := op, done := true, latch := none }

/-- The engine's step for a command whose outcome is known (R118): an error discards every write (R119), and a
model-only fault ends the run. -/
def conclude (op : Byte) (s : State) (r : CmdOutcome) : Host.Outcome State Fault Refusal :=
  match r with
  | .ok s' => .next (s'.complete op 0x00)
  | .error e => .next (s.complete op (errNumber e))
  | .fault f => .fault f

/-- The slave port answers a host access (R80). -/
def State.answer (s : State) (r : Reply) : State := { s with reply := r }

/-- The acknowledgement of a completion, QRENC's counterpart of trap return (R290): a 1 written to DONE clears it
(R35). -/
def State.acknowledge (s : State) (bit : Bool) : State := { s with done := s.done && !bit }

/-- A 1 written to OVR clears it (R35). -/
def State.clearOverrun (s : State) (bit : Bool) : State := { s with ovr := s.ovr && !bit }

/-- STATUS.BUSY: a command is in flight (R35, R61). -/
def State.busy (s : State) : Bool := s.latch.isSome

/-- What a command accepted now would latch (R117). -/
def State.latchOf (s : State) (w : Word) : Latch :=
  { word := w, version := s.version, ecl := s.ecl, a0 := s.arg0, a1 := s.arg1, a2 := s.arg2 }

/-- Another command word while one is in flight: discarded, and the loss recorded (R34, R35). -/
def State.overrun (s : State) : State := { s with ovr := true }

/-- The acceptance of a command word by an idle QRENC (R117). -/
def State.accept (s : State) (w : Word) : State :=
  { s with cmd := w, latch := some (s.latchOf w), done := false }

/-- A host write of a word to CMD (R34, R117): accepted if idle, discarded with OVR set if busy. -/
def State.issue (s : State) (w : Word) : State :=
  if s.busy then s.overrun else s.accept w

/-- The operands a command runs on (R16): the latch's. With no command in flight, which no step of the machine has
when a command runs, they are the current registers (log 8). -/
def State.operands (s : State) : Latch := s.latch.getD (s.latchOf s.cmd)

/-- Every CSR at its reset value and the latch empty (R310, R311); the RAMs, the parameters and the model's own
fields stay. -/
def State.resetCsrs (s : State) : State :=
  { State.reset with
    mem := s.mem, params := s.params, agenda := s.agenda, reply := s.reply, draws := s.draws }

/-- Hard reset (R310): every CSR at its reset value, no command in flight, no RAM byte written. What happens next
and the draws already made are not QRENC's to reset (log 17). -/
def State.hardReset (s : State) : State :=
  { State.reset with params := s.params, agenda := s.agenda, draws := s.draws }

end Sys2Proof.Machine
end

