-- ==== Sys2Proof/Machine/Tables.lean ====
section
/-! DEFINITION. The read-only tables of 10_state.md: the RS block table (R46), the codeword counts (R47) and the
alignment coordinates (R49), with the values derived from them. -/

namespace Sys2Proof.Machine

open Sys2Proof

/-- The four error-correction levels, in increasing strength (00_scope.md section 7, R38). -/
inductive EccLevel where
  | l
  | m
  | q
  | h
  deriving DecidableEq, Repr

/-- CONFIG.ECL's encoding of a level (R38). -/
def eccLevel (e : BitVec 2) : EccLevel :=
  match e.toNat with
  | 0 => .l
  | 1 => .m
  | 2 => .q
  | _ => .h

/-- One row of R47's table: TOTAL_CW and REM_BITS, and for each level ECC_PER_BLK and NUM_BLOCKS (R46). -/
structure RomRow where
  total : Nat
  rem : Nat
  l : Nat × Nat
  m : Nat × Nat
  q : Nat × Nat
  h : Nat × Nat
  deriving DecidableEq, Repr

/-- Rows 1 to 10 of R47's table. -/
def romRows1to10 : List RomRow := [
  ⟨26, 0, (7, 1), (10, 1), (13, 1), (17, 1)⟩,
  ⟨44, 7, (10, 1), (16, 1), (22, 1), (28, 1)⟩,
  ⟨70, 7, (15, 1), (26, 1), (18, 2), (22, 2)⟩,
  ⟨100, 7, (20, 1), (18, 2), (26, 2), (16, 4)⟩,
  ⟨134, 7, (26, 1), (24, 2), (18, 4), (22, 4)⟩,
  ⟨172, 7, (18, 2), (16, 4), (24, 4), (28, 4)⟩,
  ⟨196, 0, (20, 2), (18, 4), (18, 6), (26, 5)⟩,
  ⟨242, 0, (24, 2), (22, 4), (22, 6), (26, 6)⟩,
  ⟨292, 0, (30, 2), (22, 5), (20, 8), (24, 8)⟩,
  ⟨346, 0, (18, 4), (26, 5), (24, 8), (28, 8)⟩]

/-- Rows 11 to 20 of R47's table. -/
def romRows11to20 : List RomRow := [
  ⟨404, 0, (20, 4), (30, 5), (28, 8), (24, 11)⟩,
  ⟨466, 0, (24, 4), (22, 8), (26, 10), (28, 11)⟩,
  ⟨532, 0, (26, 4), (22, 9), (24, 12), (22, 16)⟩,
  ⟨581, 3, (30, 4), (24, 9), (20, 16), (24, 16)⟩,
  ⟨655, 3, (22, 6), (24, 10), (30, 12), (24, 18)⟩,
  ⟨733, 3, (24, 6), (28, 10), (24, 17), (30, 16)⟩,
  ⟨815, 3, (28, 6), (28, 11), (28, 16), (28, 19)⟩,
  ⟨901, 3, (30, 6), (26, 13), (28, 18), (28, 21)⟩,
  ⟨991, 3, (28, 7), (26, 14), (26, 21), (26, 25)⟩,
  ⟨1085, 3, (28, 8), (26, 16), (30, 20), (28, 25)⟩]

/-- Rows 21 to 30 of R47's table. -/
def romRows21to30 : List RomRow := [
  ⟨1156, 4, (28, 8), (26, 17), (28, 23), (30, 25)⟩,
  ⟨1258, 4, (28, 9), (28, 17), (30, 23), (24, 34)⟩,
  ⟨1364, 4, (30, 9), (28, 18), (30, 25), (30, 30)⟩,
  ⟨1474, 4, (30, 10), (28, 20), (30, 27), (30, 32)⟩,
  ⟨1588, 4, (26, 12), (28, 21), (30, 29), (30, 35)⟩,
  ⟨1706, 4, (28, 12), (28, 23), (28, 34), (30, 37)⟩,
  ⟨1828, 4, (30, 12), (28, 25), (30, 34), (30, 40)⟩,
  ⟨1921, 3, (30, 13), (28, 26), (30, 35), (30, 42)⟩,
  ⟨2051, 3, (30, 14), (28, 28), (30, 38), (30, 45)⟩,
  ⟨2185, 3, (30, 15), (28, 29), (30, 40), (30, 48)⟩]

/-- Rows 31 to 40 of R47's table. -/
def romRows31to40 : List RomRow := [
  ⟨2323, 3, (30, 16), (28, 31), (30, 43), (30, 51)⟩,
  ⟨2465, 3, (30, 17), (28, 33), (30, 45), (30, 54)⟩,
  ⟨2611, 3, (30, 18), (28, 35), (30, 48), (30, 57)⟩,
  ⟨2761, 3, (30, 19), (28, 37), (30, 51), (30, 60)⟩,
  ⟨2876, 0, (30, 19), (28, 38), (30, 53), (30, 63)⟩,
  ⟨3034, 0, (30, 20), (28, 40), (30, 56), (30, 66)⟩,
  ⟨3196, 0, (30, 21), (28, 43), (30, 59), (30, 70)⟩,
  ⟨3362, 0, (30, 22), (28, 45), (30, 62), (30, 74)⟩,
  ⟨3532, 0, (30, 24), (28, 47), (30, 65), (30, 77)⟩,
  ⟨3706, 0, (30, 25), (28, 49), (30, 68), (30, 81)⟩]

/-- R47's table, versions 1 to 40 in order. -/
def romTable : List RomRow := romRows1to10 ++ romRows11to20 ++ romRows21to30 ++ romRows31to40

/-- The legal versions (R38). -/
def legalVersion (v : Nat) : Bool := 1 ≤ v && v ≤ 40

/-- The row of a legal version. -/
def romRow (v : Nat) : RomRow := romTable.getD (v - 1) ⟨0, 0, (0, 0), (0, 0), (0, 0), (0, 0)⟩

/-- The (ECC_PER_BLK, NUM_BLOCKS) pair of a version and a level (R46). -/
def blockPair (v : Nat) (e : EccLevel) : Nat × Nat :=
  match e with
  | .l => (romRow v).l
  | .m => (romRow v).m
  | .q => (romRow v).q
  | .h => (romRow v).h

/-- The side of a version's symbol in modules (R15). -/
def side (v : Nat) : Nat := 4 * v + 17

/-- TOTAL_CW(V) (R47). -/
def totalCw (v : Nat) : Nat := (romRow v).total

/-- REM_BITS(V) (R47). -/
def remBits (v : Nat) : Nat := (romRow v).rem

/-- ECC_PER_BLK(V, E) (R46). -/
def eccPerBlk (v : Nat) (e : EccLevel) : Nat := (blockPair v e).1

/-- NUM_BLOCKS(V, E) (R46). -/
def numBlocks (v : Nat) (e : EccLevel) : Nat := (blockPair v e).2

/-- DATA_CW(V, E) (R46). -/
def dataCw (v : Nat) (e : EccLevel) : Nat := totalCw v - eccPerBlk v e * numBlocks v e

/-- G2_COUNT(V, E), the longer blocks (R46). -/
def g2Count (v : Nat) (e : EccLevel) : Nat := totalCw v % numBlocks v e

/-- G1_COUNT(V, E), the shorter blocks (R46). -/
def g1Count (v : Nat) (e : EccLevel) : Nat := numBlocks v e - g2Count v e

/-- G1_DATA(V, E) (R46). -/
def g1Data (v : Nat) (e : EccLevel) : Nat := totalCw v / numBlocks v e - eccPerBlk v e

/-- G2_DATA(V, E), meaningful only when G2_COUNT > 0 (R46). -/
def g2Data (v : Nat) (e : EccLevel) : Nat := g1Data v e + 1

/-- The data codewords of each block, in block order (R46). -/
def blockLengths (v : Nat) (e : EccLevel) : List Nat :=
  List.replicate (g1Count v e) (g1Data v e) ++ List.replicate (g2Count v e) (g2Data v e)

/-- Rows 1 to 10 of R49's table. -/
def alignRows1to10 : List (List Nat) := [
  [],
  [6, 18],
  [6, 22],
  [6, 26],
  [6, 30],
  [6, 34],
  [6, 22, 38],
  [6, 24, 42],
  [6, 26, 46],
  [6, 28, 50]]

/-- Rows 11 to 20 of R49's table. -/
def alignRows11to20 : List (List Nat) := [
  [6, 30, 54],
  [6, 32, 58],
  [6, 34, 62],
  [6, 26, 46, 66],
  [6, 26, 48, 70],
  [6, 26, 50, 74],
  [6, 30, 54, 78],
  [6, 30, 56, 82],
  [6, 30, 58, 86],
  [6, 34, 62, 90]]

/-- Rows 21 to 30 of R49's table. -/
def alignRows21to30 : List (List Nat) := [
  [6, 28, 50, 72, 94],
  [6, 26, 50, 74, 98],
  [6, 30, 54, 78, 102],
  [6, 28, 54, 80, 106],
  [6, 32, 58, 84, 110],
  [6, 30, 58, 86, 114],
  [6, 34, 62, 90, 118],
  [6, 26, 50, 74, 98, 122],
  [6, 30, 54, 78, 102, 126],
  [6, 26, 52, 78, 104, 130]]

/-- Rows 31 to 40 of R49's table. -/
def alignRows31to40 : List (List Nat) := [
  [6, 30, 56, 82, 108, 134],
  [6, 34, 60, 86, 112, 138],
  [6, 30, 58, 86, 114, 142],
  [6, 34, 62, 90, 118, 146],
  [6, 30, 54, 78, 102, 126, 150],
  [6, 24, 50, 76, 102, 128, 154],
  [6, 28, 54, 80, 106, 132, 158],
  [6, 32, 58, 84, 110, 136, 162],
  [6, 26, 54, 82, 110, 138, 166],
  [6, 30, 58, 86, 114, 142, 170]]

/-- R49's table, versions 1 to 40 in order. -/
def alignTable : List (List Nat) := alignRows1to10 ++ alignRows11to20 ++ alignRows21to30 ++ alignRows31to40

/-- The alignment coordinates of a version (R49). -/
def alignCoords (v : Nat) : List Nat := alignTable.getD (v - 1) []

end Sys2Proof.Machine
end

