-- ==== Sys2Proof/Machine/Operands.lean ====
section
/-! DEFINITION. The operand forms of the commands: immediates (30_encoding.md R112), latched registers (00_scope.md
R16), buffer ranges (R39), module bytes (10_state.md R56), with the range checks each form carries. -/

namespace Sys2Proof.Machine

open Sys2Proof

/-- An immediate as a number: zero-extended, never sign-extended, scaled or shifted (R112). -/
def immNat (imm : Byte) : Nat := imm.toNat

/-- `V`, the latched version (R16). -/
def Latch.v (o : Latch) : Nat := o.version.toNat

/-- `E`, the latched ECC level (R16). -/
def Latch.e (o : Latch) : EccLevel := eccLevel o.ecl

/-- BAD_CONFIG: the latched VERSION is outside 1 to 40 (R38, R120). -/
def checkConfig (o : Latch) : Option ErrCode :=
  if legalVersion o.v then none else some .badConfig

/-- BAD_OPERAND for a mask index: k > 7 (R230, R233, R254). -/
def checkMask (k : Nat) : Option ErrCode :=
  if 7 < k then some .badOperand else none

/-- BAD_OPERAND for the ranges of RS_DIV and RS_SYND (R156, R157): data offset `s`, data length `len`, ECC offset `d`
and `n` ECC codewords. -/
def checkRanges (s len d n : Nat) : Option ErrCode :=
  if 4096 < s + len ∨ 4096 < d + n ∨ 255 < len + n then some .badOperand else none

/-- The kind of a module (R56). -/
inductive ModuleKind where
  | data
  | function
  | format
  | version
  deriving DecidableEq, Repr

/-- The two bits of a kind (R56). -/
def kindBits : ModuleKind → Byte
  | .data => 0b00
  | .function => 0b01
  | .format => 0b10
  | .version => 0b11

/-- The kind that bits[2:1] of a module byte name (R56). -/
def kindOf (b : Byte) : ModuleKind :=
  match b.getLsbD 2, b.getLsbD 1 with
  | false, false => .data
  | false, true => .function
  | true, false => .format
  | true, true => .version

/-- bit 0 of a module byte: true = Dark (R15, R56). -/
def colorOf (b : Byte) : Bool := b.getLsbD 0

/-- bit 3 of a module byte: ASSIGNED (R56, R57). -/
def asgOf (b : Byte) : Bool := b.getLsbD 3

/-- A module byte from its fields, with bits[7:4] = 0 (R56). -/
def moduleByte (color : Bool) (kind : ModuleKind) (asg : Bool) : Byte :=
  (BitVec.ofBool asg).setWidth 8 <<< 3 ||| kindBits kind <<< 1 ||| (BitVec.ofBool color).setWidth 8

/-- A free data module: kind Data and asg 0 (00_scope.md section 7). -/
def isFree (b : Byte) : Bool := kindOf b = .data && !asgOf b

/-- A maskable module (R220): kind Data, or kind Format or Version with asg 0; never Function. -/
def isMaskable (b : Byte) : Bool :=
  match kindOf b with
  | .data => true
  | .function => false
  | .format => !asgOf b
  | .version => !asgOf b

/-- The module byte with its colour set and asg = 1, kind unchanged (R200). -/
def placeBit (bit : Bool) (b : Byte) : Byte := moduleByte bit (kindOf b) true

/-- The module byte with its colour inverted, kind and asg unchanged (R220). -/
def invertColor (b : Byte) : Byte := moduleByte (!colorOf b) (kindOf b) (asgOf b)

/-- The bits of a byte, most significant first (R12, R202). -/
def msbBits (b : Byte) : List Bool :=
  [b.getLsbD 7, b.getLsbD 6, b.getLsbD 5, b.getLsbD 4, b.getLsbD 3, b.getLsbD 2, b.getLsbD 1, b.getLsbD 0]

/-- The rows of a symbol as module bytes. -/
abbrev Grid := List (List Byte)

/-- The `count` rows from row `r` on, or none if a module of them was never written (R60, R98). -/
def readRows (m : Memory) (side : Nat) : Nat → Nat → Option Grid
  | _, 0 => some []
  | r, count + 1 =>
    match m.readRange (matAddr r 0) side, readRows m side (r + 1) count with
    | some row, some rows => some (row :: rows)
    | _, _ => none

/-- The module bytes of the symbol of side `side`, row by row (R56). -/
def readSymbol (m : Memory) (side : Nat) : Option Grid := readRows m side 0 side

/-- What the engine reads of the current symbol, or the UninitRead fault (R98). -/
def withSymbol (m : Memory) (side : Nat) (k : Grid → CmdOutcome) : CmdOutcome :=
  match readSymbol m side with
  | some g => k g
  | none => .fault .uninitRead

/-- Module (r, c) of a grid that holds it. -/
def gridAt (g : Grid) (r c : Nat) : Byte := (g.getD r []).getD c 0

end Sys2Proof.Machine
end

