-- ==== Sys2Proof/Machine/Flags.lean ====
section
/-! DEFINITION. The flags: STATUS and ERRCODE as words (10_state.md R31, R35, R37), the stage flags each command
writes (R36), the prerequisites they gate (30_encoding.md R121), and the interrupt output (R63). -/

namespace Sys2Proof.Machine

open Sys2Proof

/-- A flag at a bit position of a 32-bit word. -/
def bitAt (b : Bool) (pos : Nat) : Word := (BitVec.ofBool b).setWidth 32 <<< pos

/-- STATUS.ERR always equals (ERRCODE.CODE ≠ 0) (R35). -/
def State.err (s : State) : Bool := s.errCode != 0

/-- STATUS as a host reads it (R31, R35). -/
def State.status (s : State) : Word :=
  bitAt s.busy 0 ||| bitAt s.done 1 ||| bitAt s.err 2 ||| bitAt s.ovr 3 ||| bitAt s.res.synz 4 |||
  bitAt s.res.eccDone 8 ||| bitAt s.res.ilvDone 9 ||| bitAt s.res.funcDone 10 ||| bitAt s.res.placed 11 |||
  bitAt s.res.searched 12 ||| bitAt s.res.masked 13 ||| bitAt s.res.fmtDone 14 ||| bitAt s.res.verDone 15

/-- ERRCODE as a host reads it: CODE in bits[7:0], OP in bits[15:8] (R31, R37). -/
def State.errcodeWord (s : State) : Word := (s.errOp ++ s.errCode).setWidth 32

/-- The interrupt output: irq = CTRL.IE ∧ STATUS.DONE (R63, R287). -/
def State.irq (s : State) : Bool := s.ie && s.done

/-- A host write to STATUS (R31, R35): writing 1 to DONE or OVR clears it, and every other bit is read-only. -/
def State.writeStatus (s : State) (w : Word) : State :=
  (s.acknowledge (w.getLsbD 1)).clearOverrun (w.getLsbD 3)

/-- SEQUENCE for a command that needs a drawn matrix (R121): FUNC_DONE = 0 or MX_VERSION ≠ V. -/
def checkDrawn (o : Latch) (s : State) : Option ErrCode :=
  if s.res.funcDone = true ∧ s.res.mxVersion = o.version then none else some .sequence

/-- SEQUENCE for MX_PLACE: a drawn matrix, and PLACED = 0 (R121). -/
def checkUnplaced (o : Latch) (s : State) : Option ErrCode :=
  if s.res.placed = true then some .sequence else checkDrawn o s

/-- The flags RS_ENCODE_ALL writes: ECC_DONE set, ILV_DONE cleared (R36, R158). -/
def Results.flagEcc (r : Results) : Results := { r with eccDone := true, ilvDone := false }

/-- The flag INTERLEAVE writes (R36, R180). -/
def Results.flagIlv (r : Results) : Results := { r with ilvDone := true }

/-- The flags MX_FUNC writes: FUNC_DONE set, the five later matrix stages cleared (R36, R190). -/
def Results.flagFunc (r : Results) : Results :=
  { r with funcDone := true, placed := false, searched := false, masked := false, fmtDone := false, verDone := false }

/-- The flag MX_PLACE writes (R36, R200). -/
def Results.flagPlaced (r : Results) : Results := { r with placed := true }

/-- The flag MASK_SEARCH writes (R36, R231). -/
def Results.flagSearched (r : Results) : Results := { r with searched := true }

/-- The flag MASK_APPLY writes (R36, R233). -/
def Results.flagMasked (r : Results) : Results := { r with masked := true }

/-- The flag FMT_WRITE writes (R36, R254). -/
def Results.flagFmt (r : Results) : Results := { r with fmtDone := true }

/-- The flag VER_WRITE writes (R36, R255). -/
def Results.flagVer (r : Results) : Results := { r with verDone := true }

end Sys2Proof.Machine
end

