-- ==== Sys2Proof/Machine/Csr.lean ====
section
/-! DEFINITION. The control and status registers as the host sees them (10_state.md R31 to R44, R50): which register
an offset names, what a read of it gives, and what a write to it does apart from the soft reset (Machine/Abort.lean). -/

namespace Sys2Proof.Machine

open Sys2Proof

/-- The registers of R31's table. -/
inductive Csr where
  | id
  | ctrl
  | cmd
  | status
  | errcode
  | config
  | arg0
  | arg1
  | arg2
  | gfRes
  | genDeg
  | chosen
  | fmtWord
  | verWord
  | cwLen
  | mxVersion
  | penTotal (k : Fin 8)
  | infoSide
  | infoTotalCw
  | infoDataCw
  | infoEccPerBlk
  | infoG1
  | infoG2
  | infoRemBits
  | infoNumBlocks
  | alignN
  | alignPos (i : Fin 7)
  | penRule (k : Fin 8) (j : Fin 4)
  | gen (i : Fin 31)
  | synd (j : Fin 30)
  deriving DecidableEq, Repr

/-- The registers at single offsets (R31). -/
def csrSingle (off : Nat) : Option Csr :=
  match off with
  | 0x000 => some .id
  | 0x004 => some .ctrl
  | 0x008 => some .cmd
  | 0x00C => some .status
  | 0x010 => some .errcode
  | 0x014 => some .config
  | 0x018 => some .arg0
  | 0x01C => some .arg1
  | 0x020 => some .arg2
  | 0x024 => some .gfRes
  | 0x028 => some .genDeg
  | 0x02C => some .chosen
  | 0x030 => some .fmtWord
  | 0x034 => some .verWord
  | 0x038 => some .cwLen
  | 0x03C => some .mxVersion
  | 0x060 => some .infoSide
  | 0x064 => some .infoTotalCw
  | 0x068 => some .infoDataCw
  | 0x06C => some .infoEccPerBlk
  | 0x070 => some .infoG1
  | 0x074 => some .infoG2
  | 0x078 => some .infoRemBits
  | 0x07C => some .infoNumBlocks
  | 0x080 => some .alignN
  | _ => none

/-- The registers in arrays, at aligned offsets (R31). -/
def csrArray (off : Nat) : Option Csr :=
  if 0x040 ≤ off ∧ off < 0x060 then some (.penTotal (Fin.ofNat 8 ((off - 0x040) / 4)))
  else if 0x0C0 ≤ off ∧ off < 0x0DC then some (.alignPos (Fin.ofNat 7 ((off - 0x0C0) / 4)))
  else if 0x100 ≤ off ∧ off < 0x180 then
    some (.penRule (Fin.ofNat 8 ((off - 0x100) / 16)) (Fin.ofNat 4 ((off - 0x100) % 16 / 4)))
  else if 0x200 ≤ off ∧ off < 0x27C then some (.gen (Fin.ofNat 31 ((off - 0x200) / 4)))
  else if 0x280 ≤ off ∧ off < 0x2F8 then some (.synd (Fin.ofNat 30 ((off - 0x280) / 4)))
  else none

/-- The register at a byte offset of the CSR region: none where R31's table lists none. -/
def csrAt (off : Nat) : Option Csr := if off % 4 = 0 then (csrSingle off).or (csrArray off) else none

/-- ID, constant (R3, R32). -/
def idValue : Word := 0x51520001

/-- INFO_G1 and INFO_G2's layout: count in bits[7:0], data codewords per block in bits[23:16] (R31, R44). -/
def groupWord (count data : Nat) : Word := BitVec.ofNat 32 (count + data * 65536)

/-- An INFO or ALIGN view at the current CONFIG: 0 when VERSION is illegal (R44). -/
def infoView (s : State) (f : Nat → EccLevel → Word) : Word :=
  if legalVersion s.version.toNat then f s.version.toNat (eccLevel s.ecl) else 0

/-- What a read of a register gives while QRENC is idle, and of a register that is no result CSR at any time (R31 to
R44, R321). Reserved bits read 0 (R50). -/
def readCsr (s : State) : Csr → Word
  | .id => idValue
  | .ctrl => bitAt s.ie 0
  | .cmd => s.cmd
  | .status => s.status
  | .errcode => s.errcodeWord
  | .config => s.version.setWidth 32 ||| s.ecl.setWidth 32 <<< 8
  | .arg0 => s.arg0.setWidth 32
  | .arg1 => s.arg1.setWidth 32
  | .arg2 => s.arg2.setWidth 32
  | .gfRes => s.res.gfRes.setWidth 32
  | .genDeg => s.res.genDeg.setWidth 32
  | .chosen => s.res.chosenMask.setWidth 32 ||| bitAt s.res.chosenValid 31
  | .fmtWord => s.res.fmtWord.setWidth 32
  | .verWord => s.res.verWord.setWidth 32
  | .cwLen => s.res.cwLen.setWidth 32
  | .mxVersion => s.res.mxVersion.setWidth 32
  | .penTotal k => s.res.penTotal[k]
  | .infoSide => infoView s fun v _ => BitVec.ofNat 32 (side v)
  | .infoTotalCw => infoView s fun v _ => BitVec.ofNat 32 (totalCw v)
  | .infoDataCw => infoView s fun v e => BitVec.ofNat 32 (dataCw v e)
  | .infoEccPerBlk => infoView s fun v e => BitVec.ofNat 32 (eccPerBlk v e)
  | .infoG1 => infoView s fun v e => groupWord (g1Count v e) (g1Data v e)
  | .infoG2 => infoView s fun v e => groupWord (g2Count v e) (if g2Count v e = 0 then 0 else g2Data v e)
  | .infoRemBits => infoView s fun v _ => BitVec.ofNat 32 (remBits v)
  | .infoNumBlocks => infoView s fun v e => BitVec.ofNat 32 (numBlocks v e)
  | .alignN => infoView s fun v _ => BitVec.ofNat 32 (alignCoords v).length
  | .alignPos i => infoView s fun v _ => BitVec.ofNat 32 ((alignCoords v).getD i 0)
  | .penRule k j => (s.res.penRule[k])[j]
  | .gen i => (s.res.gen[i]).setWidth 32
  | .synd j => (s.res.synd[j]).setWidth 32

/-- The result CSRs, which a command may be updating (R321). -/
def isResultCsr : Csr → Bool
  | .gfRes | .genDeg | .gen _ | .synd _ | .chosen | .fmtWord | .verWord | .cwLen | .mxVersion | .penTotal _
  | .penRule _ _ => true
  | .id | .ctrl | .cmd | .status | .errcode | .config | .arg0 | .arg1 | .arg2 | .infoSide | .infoTotalCw
  | .infoDataCw | .infoEccPerBlk | .infoG1 | .infoG2 | .infoRemBits | .infoNumBlocks | .alignN | .alignPos _ => false

/-- The bits of a result CSR that R31 names; the others are reserved and read 0 (R50, log 4). -/
def resultBits : Csr → Word
  | .gfRes | .gen _ | .synd _ => 0xFF
  | .genDeg | .mxVersion => 0x3F
  | .chosen => 0x80000007
  | .fmtWord => 0x7FFF
  | .verWord => 0x3FFFF
  | .cwLen => 0xFFF
  | _ => 0xFFFFFFFF

/-- What the slave port returns for a register (R31, R321): a fresh free value for a result CSR while BUSY = 1. -/
def csrReadData (s : State) (c : Csr) : Word :=
  if s.busy && isResultCsr c then Config.busyDraw s.draws &&& resultBits c else readCsr s c

/-- A read has no side effect (R88); only the model's own count of draws advances when one is made (log 5). -/
def afterCsrRead (s : State) (c : Csr) : State :=
  if s.busy && isResultCsr c then { s with draws := s.draws + 1 } else s

/-- A write to a register other than CTRL with SRST set (R31, R33 to R39, R50, R322). Read-only registers and
reserved bits ignore it. -/
def writeCsr (s : State) (c : Csr) (w : Word) : State :=
  match c with
  | .ctrl => { s with ie := w.getLsbD 0 }
  | .cmd => s.issue w
  | .status => s.writeStatus w
  | .config => { s with version := w.extractLsb' 0 6, ecl := w.extractLsb' 8 2 }
  | .arg0 => { s with arg0 := w.extractLsb' 0 16 }
  | .arg1 => { s with arg1 := w.extractLsb' 0 16 }
  | .arg2 => { s with arg2 := w.extractLsb' 0 16 }
  | .id | .errcode | .gfRes | .genDeg | .chosen | .fmtWord | .verWord | .cwLen | .mxVersion | .penTotal _
  | .infoSide | .infoTotalCw | .infoDataCw | .infoEccPerBlk | .infoG1 | .infoG2 | .infoRemBits | .infoNumBlocks
  | .alignN | .alignPos _ | .penRule _ _ | .gen _ | .synd _ => s

end Sys2Proof.Machine
end

