-- ==== Sys2Proof/Machine/Control.lean ====
section
/-! DEFINITION. The control commands NOP and CLEAR (40_control.md R140, R141). -/

namespace Sys2Proof.Machine

open Sys2Proof

/-- NOP's effect: none (R140). -/
def doNop (s : State) : CmdOutcome := .ok s

/-- CLEAR's effect: every result register, SYNZ and every stage flag 0; nothing else (R141). -/
def doClear (s : State) : CmdOutcome := .ok (s.setRes Results.zero)

/-- NOP (R140). -/
def execNop (s : State) : Host.Outcome State Fault Refusal := conclude 0x00 s (doNop s)

/-- CLEAR (R141). -/
def execClear (s : State) : Host.Outcome State Fault Refusal := conclude 0x01 s (doClear s)

end Sys2Proof.Machine
end

