-- ==== Sys2Proof/Machine/Gf.lean ====
section
/-! DEFINITION. GF(256) arithmetic (41_gf_rs.md R150) and the commands GF_MUL, GF_EXP, GF_LOG and GF_INV
(R151, R152, R153, R155). -/

namespace Sys2Proof.Machine

open Sys2Proof

/-- One step of R150's loop: multiply the 9-bit `r` by x and reduce by 0x11D, then add `a` if the bit of `b` is 1. -/
def gfMulStep (a b : Byte) (r : BitVec 9) (i : Nat) : BitVec 9 :=
  let r := (r <<< 1) ^^^ (if r.getLsbD 7 then 0x11D#9 else 0#9)
  if b.getLsbD i then r ^^^ a.setWidth 9 else r

/-- `a ⊗ b` (R150). -/
def gfMul (a b : Byte) : Byte :=
  ([7, 6, 5, 4, 3, 2, 1, 0].foldl (gfMulStep a b) 0#9).setWidth 8

/-- The primitive element α = 0x02 (R10, R150). -/
def gfAlpha : Byte := 0x02

/-- α^k: EXP[0] = 1 and EXP[k + 1] = EXP[k] ⊗ 0x02 (R150). -/
def gfExp : Nat → Byte
  | 0 => 0x01
  | k + 1 => gfMul (gfExp k) gfAlpha

/-- Search the powers x, x ⊗ α, x ⊗ α², ... for `a`, the first being α^k. -/
def gfLogFrom (a : Byte) : Nat → Nat → Byte → Nat
  | 0, k, _ => k
  | fuel + 1, k, x => if x = a then k else gfLogFrom a fuel (k + 1) (gfMul x gfAlpha)

/-- LOG[a], for a ≠ 0: the k in 0 to 254 with α^k = a (R150). LOG[0] is undefined and no command asks for it. -/
def gfLog (a : Byte) : Nat := gfLogFrom a 255 0 0x01

/-- The inverse of a ≠ 0: EXP[(255 − LOG[a]) mod 255] (R155). -/
def gfInv (a : Byte) : Byte := gfExp ((255 - gfLog a) % 255)

/-- GF_ZERO: the logarithm or inverse of 0 was asked for (R153, R155). -/
def checkGfZero (a : Byte) : Option ErrCode := if a = 0 then some .gfZero else none

/-- The commands of this file write GF_RES and nothing else. -/
def State.setGfRes (s : State) (v : Byte) : State := s.setRes { s.res with gfRes := v }

/-- GF_MUL's effect (R151). -/
def doGfMul (a b : Byte) (s : State) : CmdOutcome := .ok (s.setGfRes (gfMul a b))

/-- GF_EXP's effect: EXP[k mod 255] (R152). -/
def doGfExp (k : Byte) (s : State) : CmdOutcome := .ok (s.setGfRes (gfExp (immNat k % 255)))

/-- GF_LOG's effect (R153). -/
def doGfLog (a : Byte) (s : State) : CmdOutcome :=
  checked (checkGfZero a) (.ok (s.setGfRes (BitVec.ofNat 8 (gfLog a))))

/-- GF_INV's effect (R155). -/
def doGfInv (a : Byte) (s : State) : CmdOutcome :=
  checked (checkGfZero a) (.ok (s.setGfRes (gfInv a)))

/-- GF_MUL a, b (R151). -/
def execGfMul (a b : Byte) (s : State) : Host.Outcome State Fault Refusal := conclude 0x08 s (doGfMul a b s)

/-- GF_EXP k (R152). -/
def execGfExp (k : Byte) (s : State) : Host.Outcome State Fault Refusal := conclude 0x09 s (doGfExp k s)

/-- GF_LOG a (R153). -/
def execGfLog (a : Byte) (s : State) : Host.Outcome State Fault Refusal := conclude 0x0A s (doGfLog a s)

/-- GF_INV a (R155). -/
def execGfInv (a : Byte) (s : State) : Host.Outcome State Fault Refusal := conclude 0x0B s (doGfInv a s)

end Sys2Proof.Machine
end

