-- ==== Sys2Proof/Machine/Rs.lean ====
section
/-! DEFINITION. The Reed-Solomon commands RS_GEN, RS_DIV, RS_SYND and RS_ENCODE_ALL (41_gf_rs.md R154, R156, R157,
R158). -/

namespace Sys2Proof.Machine

open Sys2Proof

/-- Multiply a polynomial, coefficient of x^0 first, by (x ⊕ e): the coefficient of x^i becomes
g[i − 1] ⊕ g[i] ⊗ e (R154's inner loop). -/
def mulRoot (g : List Byte) (e : Byte) : List Byte :=
  List.zipWith (fun lower own => lower ^^^ gfMul own e) (0 :: g) (g ++ [0])

/-- g(x) = (x − α^0)(x − α^1)...(x − α^(n−1)), coefficient of x^0 first, n + 1 coefficients (R154). -/
def genPoly : Nat → List Byte
  | 0 => [1]
  | j + 1 => mulRoot (genPoly j) (gfExp j)

/-- The GEN registers holding a polynomial: GEN[i] is the coefficient of x^i, 0 above its degree (R40, R154). -/
def genRegisters (g : List Byte) : Vector Byte 31 := Vector.ofFn fun i => g.getD i 0

/-- GEN and GEN_DEG written with the generator of degree n (R154, R158). -/
def Results.setGen (r : Results) (n : Nat) : Results :=
  { r with gen := genRegisters (genPoly n), genDeg := BitVec.ofNat 6 n }

/-- The n coefficients below the leading one, highest degree first: GEN[n−1], ..., GEN[0] (R156). -/
def divisorTail (gen : Vector Byte 31) (n : Nat) : List Byte := (gen.toList.take n).reverse

/-- One data codeword of R156's division: f = data ⊕ rem[0], shift, and add f times the divisor. -/
def divStep (tail rem : List Byte) (d : Byte) : List Byte :=
  List.zipWith (fun r g => r ^^^ gfMul g (d ^^^ rem.headD 0)) (rem.tail ++ [0]) tail

/-- The remainder of D(x)·x^n divided by g(x), highest degree first (R156). -/
def rsRemainder (tail data : List Byte) : List Byte :=
  data.foldl (divStep tail) (List.replicate tail.length 0)

/-- NO_GENERATOR: RS_DIV with GEN_DEG = 0 (R156). -/
def checkGenerator (s : State) : Option ErrCode := if s.res.genDeg = 0 then some .noGenerator else none

/-- BAD_OPERAND for a generator degree or a number of syndromes: n = 0 or n > 30 (R154, R157). -/
def checkDegree (n : Nat) : Option ErrCode := if n < 1 ∨ 30 < n then some .badOperand else none

/-- The first of two checks that fails (R120). -/
def firstError (c d : Option ErrCode) : Option ErrCode := c.orElse fun _ => d

/-- RS_GEN's effect (R154). -/
def doRsGen (imm : Byte) (s : State) : CmdOutcome :=
  checked (checkDegree (immNat imm)) (.ok (s.setRes (s.res.setGen (immNat imm))))

/-- RS_DIV's error conditions, in order: NO_GENERATOR, then BAD_OPERAND on the ranges (R156, R281). -/
def checkRsDiv (o : Latch) (s : State) : Option ErrCode :=
  firstError (checkGenerator s) (checkRanges o.a0.toNat o.a1.toNat o.a2.toNat s.res.genDeg.toNat)

/-- RS_DIV's effect (R156). -/
def doRsDiv (o : Latch) (s : State) : CmdOutcome :=
  checked (checkRsDiv o s) <|
    withBytes s.mem (dcwBase + o.a0.toNat) o.a1.toNat fun data =>
      .ok (s.commit s.res
        (s.mem.writeRange (eccBase + o.a2.toNat) (rsRemainder (divisorTail s.res.gen s.res.genDeg.toNat) data)))

/-- C(x) at a point, by Horner's rule, highest-degree coefficient first (R157). -/
def hornerEval (c : List Byte) (x : Byte) : Byte := c.foldl (fun acc b => gfMul acc x ^^^ b) 0

/-- SYND[0..29]: S_j = C(α^j) for j < n, and 0 above (R157). -/
def syndromes (n : Nat) (c : List Byte) : Vector Byte 30 :=
  Vector.ofFn fun j => if j.val < n then hornerEval c (gfExp j) else 0

/-- SYNZ: every computed syndrome is 0 (R157). -/
def syndromesZero (n : Nat) (c : List Byte) : Bool :=
  (List.range n).all fun j => hornerEval c (gfExp j) = 0

/-- SYND and SYNZ written with the syndromes of a sequence (R157). -/
def Results.setSynd (r : Results) (n : Nat) (c : List Byte) : Results :=
  { r with synd := syndromes n c, synz := syndromesZero n c }

/-- RS_SYND's error conditions (R157). -/
def checkRsSynd (n : Nat) (o : Latch) : Option ErrCode :=
  firstError (checkDegree n) (checkRanges o.a0.toNat o.a1.toNat o.a2.toNat n)

/-- RS_SYND's effect (R157). -/
def doRsSynd (imm : Byte) (o : Latch) (s : State) : CmdOutcome :=
  checked (checkRsSynd (immNat imm) o) <|
    withBytes s.mem (dcwBase + o.a0.toNat) o.a1.toNat fun data =>
      withBytes s.mem (eccBase + o.a2.toNat) (immNat imm) fun ecc =>
        .ok (s.setRes (s.res.setSynd (immNat imm) (data ++ ecc)))

/-- Cut the data codewords into blocks of the given lengths (R55, R158). -/
def splitBlocks : List Nat → List Byte → List (List Byte)
  | [], _ => []
  | n :: ns, bs => bs.take n :: splitBlocks ns (bs.drop n)

/-- The ECC codewords of every block, in block order (R158). -/
def blockEcc (v : Nat) (e : EccLevel) (data : List Byte) : List Byte :=
  let n := eccPerBlk v e
  let tail := (genPoly n).dropLast.reverse
  (splitBlocks (blockLengths v e) data).flatMap (rsRemainder tail)

/-- RS_ENCODE_ALL's effect (R158). -/
def doRsEncodeAll (o : Latch) (s : State) : CmdOutcome :=
  checked (checkConfig o) <|
    withBytes s.mem dcwBase (dataCw o.v o.e) fun data =>
      .ok (s.commit (s.res.setGen (eccPerBlk o.v o.e)).flagEcc
        (s.mem.writeRange eccBase (blockEcc o.v o.e data)))

/-- RS_GEN n (R154). -/
def execRsGen (n : Byte) (s : State) : Host.Outcome State Fault Refusal := conclude 0x10 s (doRsGen n s)

/-- RS_DIV (R156). -/
def execRsDiv (s : State) : Host.Outcome State Fault Refusal := conclude 0x11 s (doRsDiv s.operands s)

/-- RS_SYND n (R157). -/
def execRsSynd (n : Byte) (s : State) : Host.Outcome State Fault Refusal :=
  conclude 0x12 s (doRsSynd n s.operands s)

/-- RS_ENCODE_ALL (R158). -/
def execRsEncodeAll (s : State) : Host.Outcome State Fault Refusal :=
  conclude 0x13 s (doRsEncodeAll s.operands s)

end Sys2Proof.Machine
end

