-- ==== Sys2Proof/Machine/Interleave.lean ====
section
/-! DEFINITION. The error-correction block interleaver, INTERLEAVE (42_interleave.md R180, R182). -/

namespace Sys2Proof.Machine

open Sys2Proof

/-- Codeword i of every block in turn, for i below `maxLen`; a block that is exhausted is skipped (R180, R182). -/
def takeTurns (blocks : List (List Byte)) (maxLen : Nat) : List Byte :=
  (List.range maxLen).flatMap fun i => blocks.filterMap fun b => b[i]?

/-- The longest data part of a block (R180). -/
def maxDataLen (v : Nat) (e : EccLevel) : Nat := if 0 < g2Count v e then g2Data v e else g1Data v e

/-- The final codeword stream: the data parts in turn, then the ECC parts in turn (R180). -/
def interleaved (v : Nat) (e : EccLevel) (data ecc : List Byte) : List Byte :=
  takeTurns (splitBlocks (blockLengths v e) data) (maxDataLen v e) ++
  takeTurns (splitBlocks (List.replicate (numBlocks v e) (eccPerBlk v e)) ecc) (eccPerBlk v e)

/-- CW_LEN written (R180). -/
def Results.setCwLen (r : Results) (n : Nat) : Results := { r with cwLen := BitVec.ofNat 12 n }

/-- INTERLEAVE's effect (R180). -/
def doInterleave (o : Latch) (s : State) : CmdOutcome :=
  checked (checkConfig o) <|
    withBytes s.mem dcwBase (dataCw o.v o.e) fun data =>
      withBytes s.mem eccBase (numBlocks o.v o.e * eccPerBlk o.v o.e) fun ecc =>
        .ok (s.commit (s.res.setCwLen (interleaved o.v o.e data ecc).length).flagIlv
          (s.mem.writeRange cwBase (interleaved o.v o.e data ecc)))

/-- INTERLEAVE (R180). -/
def execInterleave (s : State) : Host.Outcome State Fault Refusal :=
  conclude 0x18 s (doInterleave s.operands s)

end Sys2Proof.Machine
end

