-- ==== Sys2Proof/Machine/Matrix.lean ====
section
/-! DEFINITION. The symbol matrix builder: the function patterns and MX_FUNC (43_matrix.md R190 to R197), the zigzag
and MX_PLACE (R200 to R203). Coordinates are (row, column) and `s` is the side of the symbol. -/

namespace Sys2Proof.Machine

open Sys2Proof

/-- |a − b| (R11). -/
def distance (a b : Nat) : Nat := if a ≤ b then b - a else a - b

/-- Whether (r, c) lies in the 7 × 7 finder whose top-left corner is (r0, c0), and its colour there (R191). -/
def finderColor (r0 c0 r c : Nat) : Option Bool :=
  if r0 ≤ r ∧ r < r0 + 7 ∧ c0 ≤ c ∧ c < c0 + 7 then
    some (max (distance r (r0 + 3)) (distance c (c0 + 3)) != 2)
  else none

/-- The three finders (R191). -/
def finderAt (s r c : Nat) : Option Bool :=
  (finderColor 0 0 r c).or ((finderColor 0 (s - 7) r c).or (finderColor (s - 7) 0 r c))

/-- The separators, all Light (R192). -/
def separatorAt (s r c : Nat) : Option Bool :=
  if (r = 7 ∧ c ≤ 7) ∨ (c = 7 ∧ r ≤ 6) ∨
     (r = 7 ∧ s - 8 ≤ c ∧ c < s) ∨ (c = s - 8 ∧ r ≤ 6) ∨
     (r = s - 8 ∧ c ≤ 7) ∨ (c = 7 ∧ s - 7 ≤ r ∧ r < s) then some false
  else none

/-- The timing patterns: row 6 and column 6 between the separators, Dark at even index (R193). -/
def timingAt (s r c : Nat) : Option Bool :=
  if r = 6 ∧ 8 ≤ c ∧ c + 9 ≤ s then some (c % 2 == 0)
  else if c = 6 ∧ 8 ≤ r ∧ r + 9 ≤ s then some (r % 2 == 0)
  else none

/-- The coordinate within 2 of x, if any (R194). -/
def nearCoord (coords : List Nat) (x : Nat) : Option Nat := coords.find? fun p => distance x p ≤ 2

/-- The pair of alignment coordinates is one of the three that would overlap a finder (R194). -/
def excludedPair (coords : List Nat) (p q : Nat) : Bool :=
  let first := coords.headD 0
  let last := coords.getLastD 0
  (p == first && q == first) || (p == first && q == last) || (p == last && q == first)

/-- The alignment patterns (R194): 5 × 5 around every pair of coordinates but the three excluded ones. -/
def alignAt (coords : List Nat) (r c : Nat) : Option Bool :=
  match nearCoord coords r, nearCoord coords c with
  | some p, some q =>
    if excludedPair coords p q then none else some (max (distance r p) (distance c q) != 1)
  | _, _ => none

/-- The dark module, (s − 8, 8) (R195). -/
def darkAt (s r c : Nat) : Option Bool := if r = s - 8 ∧ c = 8 then some true else none

/-- The colour of a Function module, or none if (r, c) holds none (R190). -/
def functionAt (v r c : Nat) : Option Bool :=
  let s := side v
  (finderAt s r c).or ((separatorAt s r c).or ((timingAt s r c).or
    ((alignAt (alignCoords v) r c).or (darkAt s r c))))

/-- FMT_POS_A[i] (R196). -/
def fmtPosA (i : Nat) : Nat × Nat :=
  if i ≤ 5 then (i, 8)
  else if i = 6 then (7, 8)
  else if i = 7 then (8, 8)
  else if i = 8 then (8, 7)
  else (8, 14 - i)

/-- FMT_POS_B[i] (R196). -/
def fmtPosB (s i : Nat) : Nat × Nat :=
  if i ≤ 7 then (8, s - 1 - i) else (s - 15 + i, 8)

/-- VER_POS_A[i] (R197). -/
def verPosA (s i : Nat) : Nat × Nat := (i / 3, s - 11 + i % 3)

/-- VER_POS_B[i] (R197). -/
def verPosB (s i : Nat) : Nat × Nat := (s - 11 + i % 3, i / 3)

/-- Every format position with the number of the format bit it holds (R196). -/
def fmtPositions (s : Nat) : List ((Nat × Nat) × Nat) :=
  (List.range 15).flatMap fun i => [(fmtPosA i, i), (fmtPosB s i, i)]

/-- Every version position with the number of the version bit it holds (R197). -/
def verPositions (s : Nat) : List ((Nat × Nat) × Nat) :=
  (List.range 18).flatMap fun i => [(verPosA s i, i), (verPosB s i, i)]

/-- (r, c) is one of the 30 format modules (R196). -/
def isFormatPos (s r c : Nat) : Bool := ((fmtPositions s).lookup (r, c)).isSome

/-- (r, c) is one of the 36 version modules of a version from 7 on (R197). -/
def isVersionPos (v r c : Nat) : Bool := 7 ≤ v && ((verPositions (side v)).lookup (r, c)).isSome

/-- The module byte MX_FUNC draws at (r, c) of the symbol (R190). -/
def drawnModule (v r c : Nat) : Byte :=
  match functionAt v r c with
  | some color => moduleByte color .function true
  | none =>
    if isFormatPos (side v) r c then moduleByte false .format false
    else if isVersionPos v r c then moduleByte false .version false
    else 0x00

/-- The byte MX_FUNC writes at a matrix offset: the drawn symbol, and 0 outside it (R56, R190). -/
def drawnByte (v o : Nat) : Byte :=
  if o / matStride < side v ∧ o % matStride < side v then drawnModule v (o / matStride) (o % matStride) else 0x00

/-- The whole matrix RAM after MX_FUNC (R190). -/
def drawnMatrix (v : Nat) : List Byte := (List.range matSize).map (drawnByte v)

/-- MX_VERSION written and CHOSEN.VALID cleared (R42, R190). -/
def Results.setDrawn (r : Results) (v : BitVec 6) : Results := { r with mxVersion := v, chosenValid := false }

/-- MX_FUNC's effect (R190). -/
def doMxFunc (o : Latch) (s : State) : CmdOutcome :=
  checked (checkConfig o) <|
    .ok (s.commit (s.res.setDrawn o.version).flagFunc (s.mem.writeRange matBase (drawnMatrix o.v)))

/-- The right columns of the zigzag's column pairs, from `right` down, column 6 skipped (R201). The fuel bounds the
loop. -/
def pairColumns : Nat → Nat → List Nat
  | 0, _ => []
  | fuel + 1, right =>
    if right < 1 then []
    else
      let right' := if right = 6 then 5 else right
      right' :: pairColumns fuel (right' - 2)

/-- The rows of a column pair in the order visited: upward exactly when ((right + 1) AND 2) = 0 (R201). -/
def pairRows (s right : Nat) : List Nat :=
  if (right + 1) &&& 2 = 0 then (List.range s).map fun vert => s - 1 - vert else List.range s

/-- Every coordinate the zigzag visits, in order, the right column of a pair first (R201). -/
def zigzagPath (s : Nat) : List (Nat × Nat) :=
  (pairColumns s (s - 1)).flatMap fun right =>
    (pairRows s right).flatMap fun r => [(r, right), (r, right - 1)]

/-- ZIGZAG(V): the free data modules in the zigzag's order (R201). -/
def zigzag (s : Nat) (g : Grid) : List (Nat × Nat) :=
  (zigzagPath s).filter fun p => isFree (gridAt g p.1 p.2)

/-- The bits MX_PLACE places: the codewords' bits, most significant first, then REM_BITS zeros (R200, R202, R203). -/
def placedBits (v : Nat) (cw : List Byte) : List Bool := cw.flatMap msbBits ++ List.replicate (remBits v) false

/-- The bit each free data module gets, by its window offset (R200). -/
def placements (order : List (Nat × Nat)) (bits : List Bool) : List (Nat × Bool) :=
  (order.map fun p => matAddr p.1 p.2).zip bits

/-- Give every module of the list its bit and asg = 1 (R200). -/
def placeModules (m : Memory) (s : Nat) (ps : List (Nat × Bool)) : Memory :=
  m.modify fun a b =>
    if inSymbol s a then
      match ps.lookup a with
      | some bit => placeBit bit b
      | none => b
    else b

/-- MX_PLACE's effect (R200). -/
def doMxPlace (o : Latch) (s : State) : CmdOutcome :=
  checked (checkConfig o) <| checked (checkUnplaced o s) <|
    withSymbol s.mem (side o.v) fun g =>
      if (zigzag (side o.v) g).length ≠ 8 * totalCw o.v + remBits o.v then .error .placeMismatch
      else
        withBytes s.mem cwBase (totalCw o.v) fun cw =>
          .ok (s.commit s.res.flagPlaced
            (placeModules s.mem (side o.v) (placements (zigzag (side o.v) g) (placedBits o.v cw))))

/-- MX_FUNC (R190). -/
def execMxFunc (s : State) : Host.Outcome State Fault Refusal := conclude 0x20 s (doMxFunc s.operands s)

/-- MX_PLACE (R200). -/
def execMxPlace (s : State) : Host.Outcome State Fault Refusal := conclude 0x21 s (doMxPlace s.operands s)

end Sys2Proof.Machine
end

