-- ==== Sys2Proof/Machine/FormatVersion.lean ====
section
/-! DEFINITION. The format and version information encoder: FORMATWORD and VERSIONWORD (45_format_version.md R250,
R251, R253) and the commands BCH_FMT, BCH_VER, FMT_WRITE and VER_WRITE (R252, R256, R254, R255). -/

namespace Sys2Proof.Machine

open Sys2Proof

/-- The 2-bit level code of the format information (R250), which is not CONFIG.ECL's encoding. -/
def eclBits : EccLevel → BitVec 15
  | .l => 0b01
  | .m => 0b00
  | .q => 0b11
  | .h => 0b10

/-- One step of R251's bit-serial divider, with G_F = 0x537. -/
def fmtDivStep (rem : BitVec 15) : BitVec 15 :=
  (rem <<< 1) ^^^ (if rem.getLsbD 9 then 0x537 else 0)

/-- The BCH(15,5) remainder of five data bits (R251). -/
def fmtRemainder (d : BitVec 15) : BitVec 15 := (Nat.repeat fmtDivStep 10 d) &&& 0x3FF

/-- FORMATWORD(E, k) (R251). -/
def formatWord (e : EccLevel) (k : Nat) : BitVec 15 :=
  let d := (eclBits e <<< 3) ||| BitVec.ofNat 15 k
  ((d <<< 10) ||| fmtRemainder d) ^^^ 0x5412

/-- One step of R253's bit-serial divider, with G_V = 0x1F25. -/
def verDivStep (rem : BitVec 18) : BitVec 18 :=
  (rem <<< 1) ^^^ (if rem.getLsbD 11 then 0x1F25 else 0)

/-- The BCH(18,6) remainder of a version number (R253). -/
def verRemainder (v : BitVec 18) : BitVec 18 := (Nat.repeat verDivStep 12 v) &&& 0xFFF

/-- VERSIONWORD(V), under the build's VERSION_INFO_XOR (R253). -/
def versionWord (p : Params) (v : Nat) : BitVec 18 :=
  ((BitVec.ofNat 18 v <<< 12) ||| verRemainder (BitVec.ofNat 18 v)) ^^^ p.versionInfoXor

/-- BCH_FMT's range check: k > 7 or e > 3 (R252). -/
def checkBchFmt (k e : Nat) : Option ErrCode := if 7 < k ∨ 3 < e then some .badOperand else none

/-- BCH_VER's range check: v < 7 or v > 40 (R256). -/
def checkBchVer (v : Nat) : Option ErrCode := if v < 7 ∨ 40 < v then some .badOperand else none

/-- FMT_WORD written (R42). -/
def Results.setFmtWord (r : Results) (w : BitVec 15) : Results := { r with fmtWord := w }

/-- VER_WORD written (R42). -/
def Results.setVerWord (r : Results) (w : BitVec 18) : Results := { r with verWord := w }

/-- BCH_FMT's effect (R252). -/
def doBchFmt (k e : Byte) (s : State) : CmdOutcome :=
  checked (checkBchFmt (immNat k) (immNat e)) <|
    .ok (s.setRes (s.res.setFmtWord (formatWord (eccLevel (e.setWidth 2)) (immNat k))))

/-- BCH_VER's effect (R256). -/
def doBchVer (v : Byte) (s : State) : CmdOutcome :=
  checked (checkBchVer (immNat v)) <|
    .ok (s.setRes (s.res.setVerWord (versionWord s.params (immNat v))))

/-- The 30 module bytes FMT_WRITE writes, with their window offsets (R254). -/
def formatModules (side : Nat) (w : BitVec 15) : List Host.Cell :=
  (fmtPositions side).map fun p => (matAddr p.1.1 p.1.2, moduleByte (w.getLsbD p.2) .format true)

/-- The 36 module bytes VER_WRITE writes for a version from 7 on, with their window offsets (R255). -/
def versionModules (side : Nat) (w : BitVec 18) : List Host.Cell :=
  (verPositions side).map fun p => (matAddr p.1.1 p.1.2, moduleByte (w.getLsbD p.2) .version true)

/-- FMT_WRITE's effect (R254). -/
def doFmtWrite (k : Nat) (o : Latch) (s : State) : CmdOutcome :=
  checked (checkConfig o) <| checked (checkMask k) <| checked (checkDrawn o s) <|
    .ok (s.commit (s.res.setFmtWord (formatWord o.e k)).flagFmt
      (s.mem.writeEach (formatModules (side o.v) (formatWord o.e k))))

/-- VER_WRITE's effect: for V ≤ 6 no version information exists, and the command still succeeds (R255). -/
def doVerWrite (o : Latch) (s : State) : CmdOutcome :=
  checked (checkConfig o) <| checked (checkDrawn o s) <|
    if 7 ≤ o.v then
      .ok (s.commit (s.res.setVerWord (versionWord s.params o.v)).flagVer
        (s.mem.writeEach (versionModules (side o.v) (versionWord s.params o.v))))
    else
      .ok (s.setRes (s.res.setVerWord 0).flagVer)

/-- BCH_FMT k, e (R252). -/
def execBchFmt (k e : Byte) (s : State) : Host.Outcome State Fault Refusal := conclude 0x30 s (doBchFmt k e s)

/-- BCH_VER v (R256). -/
def execBchVer (v : Byte) (s : State) : Host.Outcome State Fault Refusal := conclude 0x31 s (doBchVer v s)

/-- FMT_WRITE k (R254). -/
def execFmtWrite (k : Byte) (s : State) : Host.Outcome State Fault Refusal :=
  conclude 0x32 s (doFmtWrite (immNat k) s.operands s)

/-- VER_WRITE (R255). -/
def execVerWrite (s : State) : Host.Outcome State Fault Refusal := conclude 0x33 s (doVerWrite s.operands s)

end Sys2Proof.Machine
end

