-- ==== Sys2Proof/Machine/Mask.lean ====
section
/-! DEFINITION. The mask-pattern trial engine: maskable modules and predicates (44_mask.md R220, R221), candidates
(R222), the four penalty rules (R223 to R227), selection (R228), and MASK_EVAL, MASK_SEARCH and MASK_APPLY (R230,
R231, R233). MASK_LANES changes nothing here (R232). -/

namespace Sys2Proof.Machine

open Sys2Proof

/-- MASKPRED(k, i, j), with i the row and j the column (R221). -/
def maskPred (k i j : Nat) : Bool :=
  match k with
  | 0 => (i + j) % 2 == 0
  | 1 => i % 2 == 0
  | 2 => j % 3 == 0
  | 3 => (i + j) % 3 == 0
  | 4 => (i / 2 + j / 3) % 2 == 0
  | 5 => i * j % 2 + i * j % 3 == 0
  | 6 => (i * j % 2 + i * j % 3) % 2 == 0
  | 7 => ((i + j) % 2 + i * j % 3) % 2 == 0
  | _ => false

/-- Mask k inverts module (r, c) holding this byte (R220). -/
def inverts (k r c : Nat) (b : Byte) : Bool := isMaskable b && maskPred k r c

/-- X ⊕ mask_k at module (r, c) (R220): kind and asg never change. -/
def maskByte (k r c : Nat) (b : Byte) : Byte := if inverts k r c b then invertColor b else b

/-- A line or a whole candidate holds colours only: true = Dark. -/
abbrev Colors := List (List Bool)

/-- The colour of module (r, c) of X ⊕ mask_k (R220, R222). -/
def maskedColor (k r c : Nat) (b : Byte) : Bool := colorOf (maskByte k r c b)

/-- The format and version modules with their final colours, drawn over a candidate when SCORE_RESERVED =
FORMAT_DRAWN (R222). -/
def drawnInfo (p : Params) (v : Nat) (e : EccLevel) (k : Nat) : List ((Nat × Nat) × Bool) :=
  (fmtPositions (side v)).map (fun q => (q.1, (formatWord e k).getLsbD q.2)) ++
  if 7 ≤ v then (verPositions (side v)).map fun q => (q.1, (versionWord p v).getLsbD q.2) else []

/-- The colours drawn over X ⊕ mask_k before scoring: none when SCORE_RESERVED = MASKED (R222). -/
def overlay (p : Params) (v : Nat) (e : EccLevel) (k : Nat) : List ((Nat × Nat) × Bool) :=
  match p.scoreReserved with
  | .masked => []
  | .formatDrawn => drawnInfo p v e k

/-- One module of CAND_k (R222). -/
def candidateColor (drawn : List ((Nat × Nat) × Bool)) (k r c : Nat) (b : Byte) : Bool :=
  match drawn.lookup (r, c) with
  | some color => color
  | none => maskedColor k r c b

/-- CAND_k, built from the current matrix (R222). -/
def candidate (p : Params) (v : Nat) (e : EccLevel) (k : Nat) (g : Grid) : Colors :=
  let drawn := overlay p v e k
  g.zipIdx.map fun row => row.1.zipIdx.map fun m => candidateColor drawn k row.2 m.2 m.1

/-- The columns of an s × s candidate, left to right, each read top to bottom. -/
def columns (s : Nat) (x : Colors) : Colors :=
  (List.range s).map fun c => x.map fun row => row.getD c false

/-- The 2s lines: the rows, then the columns (44_mask.md section 2). -/
def lines (s : Nat) (x : Colors) : Colors := x ++ columns s x

/-- The lengths of the maximal runs of equal colour, given the run under way. -/
def runsFrom (cur : Bool) (len : Nat) : List Bool → List Nat
  | [] => [len]
  | b :: bs => if b = cur then runsFrom cur (len + 1) bs else len :: runsFrom b 1 bs

/-- The lengths of the maximal runs of equal colour of a line (R223). -/
def runLengths : List Bool → List Nat
  | [] => []
  | b :: bs => runsFrom b 1 bs

/-- A maximal run of length ℓ ≥ 5 costs 3 + (ℓ − 5) (R223). -/
def runPenalty (len : Nat) : Nat := if 5 ≤ len then 3 + (len - 5) else 0

/-- Rule N1 on one line (R223). -/
def n1Line (line : List Bool) : Nat := ((runLengths line).map runPenalty).sum

/-- Rule N1 (R223). -/
def n1 (s : Nat) (x : Colors) : Nat := ((lines s x).map n1Line).sum

/-- The uniform 2 × 2 blocks of two adjacent rows (R224). -/
def blocksInRows : List Bool → List Bool → Nat
  | a :: a' :: as, b :: b' :: bs =>
    (if a = a' ∧ a = b ∧ a = b' then 1 else 0) + blocksInRows (a' :: as) (b' :: bs)
  | _, _ => 0

/-- The uniform 2 × 2 blocks of a candidate (R224). -/
def uniformBlocks : Colors → Nat
  | row :: row' :: rows => blocksInRows row row' + uniformBlocks (row' :: rows)
  | _ => 0

/-- Rule N2 (R224). -/
def n2 (x : Colors) : Nat := 3 * uniformBlocks x

/-- How rule N3 reads an index outside the line: Light, or a value that matches no condition (R225). -/
def outsideValue (p : Params) : Option Bool :=
  match p.rule3Outside with
  | .light => some false
  | .absent => none

/-- CORE: Dark, Light, Dark, Dark, Dark, Light, Dark (R225). -/
def core3 : List (Option Bool) := [some true, some false, some true, some true, some true, some false, some true]

/-- Four Light modules (R225). -/
def margin3 : List (Option Bool) := [some false, some false, some false, some false]

/-- The count of one position p: `before` is ℓ[p−4..p−1], `mid` is ℓ[p..p+6], `after` is ℓ[p+7..p+10] (R225). -/
def coreCount (p : Params) (before mid after : List (Option Bool)) : Nat :=
  if mid = core3 then
    match p.rule3Mode with
    | .window11 => (if after = margin3 then 1 else 0) + (if before = margin3 then 1 else 0)
    | .coreEitherSide => if after = margin3 ∨ before = margin3 then 1 else 0
  else 0

/-- The counts of every position of a line that four outside values extend on either side (R225). -/
def coreCounts (p : Params) : List (Option Bool) → Nat
  | [] => 0
  | x :: xs =>
    coreCount p ((x :: xs).take 4) (((x :: xs).drop 4).take 7) (((x :: xs).drop 11).take 4) + coreCounts p xs

/-- Rule N3's count on one line (R225). -/
def n3Line (p : Params) (line : List Bool) : Nat :=
  coreCounts p (List.replicate 4 (outsideValue p) ++ line.map some ++ List.replicate 4 (outsideValue p))

/-- Rule N3 (R225). -/
def n3 (p : Params) (s : Nat) (x : Colors) : Nat := 40 * ((lines s x).map (n3Line p)).sum

/-- The number of Dark modules (R226). -/
def darkCount (x : Colors) : Nat := (x.map fun row => row.countP id).sum

/-- The whole 5 % steps of R226, under the build's rounding. -/
def fiveSteps (p : Params) (total dark : Nat) : Nat :=
  let delta := distance (20 * dark) (10 * total)
  match p.rule4Rounding with
  | .floor => delta / total
  | .ceilMinusOne => (delta + total - 1) / total - 1

/-- Rule N4 (R226). -/
def n4 (p : Params) (s : Nat) (x : Colors) : Nat := 10 * fiveSteps p (s * s) (darkCount x)

/-- N1, N2, N3 and N4 of CAND_k (R227, R230). -/
def penalties (p : Params) (v : Nat) (e : EccLevel) (k : Nat) (g : Grid) : List Nat :=
  let x := candidate p v e k g
  [n1 (side v) x, n2 x, n3 p (side v) x, n4 p (side v) x]

/-- The four PEN_RULE registers of a mask (R43, R230). -/
def penRuleWords (ns : List Nat) : Vector Word 4 := Vector.ofFn fun j => BitVec.ofNat 32 (ns.getD j 0)

/-- The PEN_TOTAL register of a mask (R43, R227). -/
def penTotalWord (ns : List Nat) : Word := BitVec.ofNat 32 ns.sum

/-- The PEN registers of mask k written (R230). -/
def Results.setPen (r : Results) (k : Nat) (ns : List Nat) : Results :=
  { r with penRule := r.penRule.setIfInBounds k (penRuleWords ns),
           penTotal := r.penTotal.setIfInBounds k (penTotalWord ns) }

/-- The smallest index of a minimal entry of a non-empty list of totals (R228). -/
def smallestMin : List Nat → Nat
  | [] => 0
  | t :: ts => if ts.all (t ≤ ·) then 0 else smallestMin ts + 1

/-- The penalty lists of the eight masks (R231). -/
def allPenalties (p : Params) (v : Nat) (e : EccLevel) (g : Grid) : List (List Nat) :=
  (List.range 8).map fun k => penalties p v e k g

/-- CHOSEN's mask: the smallest k that minimises PEN(k) (R228). -/
def bestMask (pens : List (List Nat)) : Nat := smallestMin (pens.map List.sum)

/-- MASK_SEARCH's registers: the PEN registers of every mask and CHOSEN (R231). -/
def Results.setSearch (r : Results) (pens : List (List Nat)) : Results :=
  { r with penRule := Vector.ofFn fun k => penRuleWords (pens.getD k [])
           penTotal := Vector.ofFn fun k => penTotalWord (pens.getD k [])
           chosenMask := BitVec.ofNat 3 (bestMask pens)
           chosenValid := true }

/-- MASK_EVAL's effect (R230). -/
def doMaskEval (k : Nat) (o : Latch) (s : State) : CmdOutcome :=
  checked (checkConfig o) <| checked (checkMask k) <| checked (checkDrawn o s) <|
    withSymbol s.mem (side o.v) fun g =>
      .ok (s.setRes (s.res.setPen k (penalties s.params o.v o.e k g)))

/-- MASK_SEARCH's effect (R231). -/
def doMaskSearch (o : Latch) (s : State) : CmdOutcome :=
  checked (checkConfig o) <| checked (checkDrawn o s) <|
    withSymbol s.mem (side o.v) fun g =>
      .ok (s.setRes (s.res.setSearch (allPenalties s.params o.v o.e g)).flagSearched)

/-- Mask k applied to every module of the symbol (R220, R233). -/
def maskModules (m : Memory) (side k : Nat) : Memory :=
  m.modify fun a b => if inSymbol side a then maskByte k (matRow a) (matCol a) b else b

/-- MASK_APPLY's effect (R233). -/
def doMaskApply (k : Nat) (o : Latch) (s : State) : CmdOutcome :=
  checked (checkConfig o) <| checked (checkMask k) <| checked (checkDrawn o s) <|
    withSymbol s.mem (side o.v) fun _ =>
      .ok (s.commit s.res.flagMasked (maskModules s.mem (side o.v) k))

/-- MASK_EVAL k (R230). -/
def execMaskEval (k : Byte) (s : State) : Host.Outcome State Fault Refusal :=
  conclude 0x28 s (doMaskEval (immNat k) s.operands s)

/-- MASK_SEARCH (R231). -/
def execMaskSearch (s : State) : Host.Outcome State Fault Refusal :=
  conclude 0x29 s (doMaskSearch s.operands s)

/-- MASK_APPLY k (R233). -/
def execMaskApply (k : Byte) (s : State) : Host.Outcome State Fault Refusal :=
  conclude 0x2A s (doMaskApply (immNat k) s.operands s)

end Sys2Proof.Machine
end

