-- ==== Sys2Proof/Machine/Pipeline.lean ====
section
/-! DEFINITION. The whole-symbol pipeline command ENCODE (46_pipeline.md R270). -/

namespace Sys2Proof.Machine

open Sys2Proof

/-- ENCODE's effect: the eight steps in R270's order, each the named command's effect without its completion
bookkeeping, on the same latched operands; the mask applied is the one MASK_SEARCH chose. -/
def doEncode (o : Latch) (s : State) : CmdOutcome :=
  checked (checkConfig o) <|
    (doRsEncodeAll o s).andThen fun s =>
    (doInterleave o s).andThen fun s =>
    (doMxFunc o s).andThen fun s =>
    (doMxPlace o s).andThen fun s =>
    (doMaskSearch o s).andThen fun s =>
    (doMaskApply s.res.chosenMask.toNat o s).andThen fun s =>
    (doFmtWrite s.res.chosenMask.toNat o s).andThen fun s =>
    doVerWrite o s

/-- ENCODE (R270). -/
def execEncode (s : State) : Host.Outcome State Fault Refusal := conclude 0x3F s (doEncode s.operands s)

end Sys2Proof.Machine
end

