-- ==== Sys2Proof/Machine/Abort.lean ====
section
/-! DEFINITION. The soft reset (70_reset_and_hazards.md R311) and the abort of a command in flight (R312). -/

namespace Sys2Proof.Machine

open Sys2Proof

/-- The modules of the symbol of side `side`, row by row. -/
def symbolSpans (side : Nat) : List Span := (List.range side).map fun r => ⟨matAddr r 0, side⟩

/-- The ECC range of RS_ENCODE_ALL (R312). -/
def eccSpan (o : Latch) : Span := ⟨eccBase, numBlocks o.v o.e * eccPerBlk o.v o.e⟩

/-- The CW range of INTERLEAVE (R312). -/
def cwSpan (o : Latch) : Span := ⟨cwBase, totalCw o.v⟩

/-- The whole matrix RAM (R312). -/
def matSpan : Span := ⟨matBase, matSize⟩

/-- The write set if the command's checks pass, and the empty set if one fails (R312). -/
def unlessError (r : CmdOutcome) (spans : List Span) : List Span :=
  match r with
  | .error _ => []
  | .ok _ | .fault _ => spans

/-- The write set of each command (R312), on the latched operands and the state it would run on. -/
def writeSet (i : Instr) (o : Latch) (s : State) : List Span :=
  match i with
  | .rsDiv => unlessError (doRsDiv o s) [⟨eccBase + o.a2.toNat, s.res.genDeg.toNat⟩]
  | .rsEncodeAll => unlessError (checked (checkConfig o) (.ok s)) [eccSpan o]
  | .interleave => unlessError (checked (checkConfig o) (.ok s)) [cwSpan o]
  | .mxFunc => unlessError (checked (checkConfig o) (.ok s)) [matSpan]
  | .encode => unlessError (checked (checkConfig o) (.ok s)) [matSpan, eccSpan o, cwSpan o]
  | .mxPlace => unlessError (doMxPlace o s) (symbolSpans (side o.v))
  | .maskApply k => unlessError (doMaskApply (immNat k) o s) (symbolSpans (side o.v))
  | .fmtWrite k => unlessError (doFmtWrite (immNat k) o s) (symbolSpans (side o.v))
  | .verWrite => unlessError (doVerWrite o s) (symbolSpans (side o.v))
  | .nop | .clear | .gfMul _ _ | .gfExp _ | .gfLog _ | .gfInv _ | .rsGen _ | .rsSynd _ | .maskEval _ | .maskSearch
  | .bchFmt _ _ | .bchVer _ => []

/-- The bytes an abort makes unwritten: none if no command is in flight, or if the latched word is illegal (R312). -/
def abortSpans (s : State) : List Span :=
  match s.latch with
  | none => []
  | some o =>
    match decode o.word with
    | .ok i => writeSet i o s
    | .error _ => []

/-- The soft reset (R311, R312): the command in flight is aborted, its write set becomes unwritten, every CSR takes
its reset value, and the RAMs otherwise keep their contents. -/
def State.softReset (s : State) : State :=
  (s.commit s.res (s.mem.erase (abortSpans s))).resetCsrs

/-- A host write to a CSR (R31, R33): a word with bit 1 set written to CTRL is the soft reset, whatever its bit 0. -/
def hostWriteCsr (s : State) (c : Csr) (w : Word) : State :=
  if c = .ctrl ∧ w.getLsbD 1 = true then s.softReset else writeCsr s c w

end Sys2Proof.Machine
end

