-- ==== Sys2Proof/Machine/Bus.lean ====
section
/-! DEFINITION. The host bus (20_memory.md R80 to R88): which accesses are legal, and what a legal one does. -/

namespace Sys2Proof.Machine

open Sys2Proof

/-- The number of bytes of an access (R80). -/
def sizeBytes : AccessSize → Nat
  | .byte => 1
  | .half => 2
  | .word => 4

/-- The five regions of the window (R81). -/
inductive Region where
  | csr
  | dcw
  | ecc
  | cw
  | matrix
  deriving DecidableEq, Repr

/-- The region of a window offset, or none where the window is unmapped (R81). -/
def regionOf (a : Nat) : Option Region :=
  if a < 0x1000 then some .csr
  else if a < 0x2000 then some .dcw
  else if a < 0x3000 then some .ecc
  else if a < 0x4000 then some .cw
  else if 0x8000 ≤ a ∧ a ≤ 0xFA60 then some .matrix
  else none

/-- What a legal access reaches. -/
inductive Target where
  /-- A register of R31. -/
  | csr (c : Csr)
  /-- `n` bytes of a RAM region from an offset on. -/
  | ram (r : Region) (a n : Nat)
  deriving DecidableEq, Repr

/-- What an access reaches, or none if it completes with ERROR (R87): its offset is unmapped (R81), its size is not
allowed in its region (R84), it is misaligned (R83), or it crosses a region boundary (R84). -/
def accessTarget (a : Access) : Option Target :=
  let n := sizeBytes a.size
  let off := a.addr.toNat
  if off % n ≠ 0 then none
  else
    match regionOf off with
    | none => none
    | some .csr => if n = 4 then (csrAt off).map .csr else none
    | some r => if regionOf (off + n - 1) = some r then some (.ram r off n) else none

/-- Little-endian assembly: Σ byte[a + i] · 256^i (R82). -/
def fromBytes : List Byte → Nat
  | [] => 0
  | b :: bs => b.toNat + 256 * fromBytes bs

/-- wdata[8i+7:8i] for i = 0 to n − 1 (R82). -/
def toBytes (w : Word) (n : Nat) : List Byte := (List.range n).map fun i => w.extractLsb' (8 * i) 8

/-- What a RAM region stores and returns of a byte: bits[7:4] of a module byte are stored as 0 and read 0 (R56,
R86). -/
def ramByte (r : Region) (b : Byte) : Byte := if r = .matrix then b &&& 0x0F else b

/-- A host read of RAM bytes (R82): UninitRead if one of them was never written (R60). -/
def ramRead (s : State) (r : Region) (a n : Nat) : Host.Outcome State Fault Refusal :=
  match s.mem.readRange a n with
  | none => .fault .uninitRead
  | some bs => .next (s.answer (.data (BitVec.ofNat 32 (fromBytes (bs.map (ramByte r))))))

/-- A host write of RAM bytes (R82, R86). -/
def ramWrite (s : State) (r : Region) (a n : Nat) (w : Word) : Host.Outcome State Fault Refusal :=
  .next ((s.commit s.res (s.mem.writeRange a ((toBytes w n).map (ramByte r)))).answer .written)

/-- A host access to a CSR (R31, R88). -/
def csrAccess (s : State) (c : Csr) (op : AccessOp) : Host.Outcome State Fault Refusal :=
  match op with
  | .read => .next ((afterCsrRead s c).answer (.data (csrReadData s c)))
  | .write w => .next ((hostWriteCsr s c w).answer .written)

/-- A host access to a RAM (R82, R86): a hazard while a command is in flight (R320). -/
def ramAccess (s : State) (r : Region) (a n : Nat) (op : AccessOp) : Host.Outcome State Fault Refusal :=
  if s.busy then .fault .hazard
  else
    match op with
    | .read => ramRead s r a n
    | .write w => ramWrite s r a n w

/-- One host access (R80, R87): an ERROR access is the model-only fault BusError (R286). -/
def hostAccess (s : State) (a : Access) : Host.Outcome State Fault Refusal :=
  match accessTarget a with
  | none => .fault .busError
  | some (.csr c) => csrAccess s c a.op
  | some (.ram r off n) => ramAccess s r off n a.op

end Sys2Proof.Machine
end

