-- ==== Sys2Proof/Machine/Dispatch.lean ====
section
/-! DEFINITION. The dispatch: one arm per command, each one direct call of its meaning (30_encoding.md R113, R118). -/

namespace Sys2Proof.Machine

open Sys2Proof

/-- The engine's step for a decoded command (R118): its meaning, completion included. -/
def exec (i : Instr) (s : State) : Host.Outcome State Fault Refusal :=
  match i with
  | .nop => Sys2Proof.Machine.execNop s
  | .clear => Sys2Proof.Machine.execClear s
  | .gfMul a b => Sys2Proof.Machine.execGfMul a b s
  | .gfExp k => Sys2Proof.Machine.execGfExp k s
  | .gfLog a => Sys2Proof.Machine.execGfLog a s
  | .gfInv a => Sys2Proof.Machine.execGfInv a s
  | .rsGen n => Sys2Proof.Machine.execRsGen n s
  | .rsDiv => Sys2Proof.Machine.execRsDiv s
  | .rsSynd n => Sys2Proof.Machine.execRsSynd n s
  | .rsEncodeAll => Sys2Proof.Machine.execRsEncodeAll s
  | .interleave => Sys2Proof.Machine.execInterleave s
  | .mxFunc => Sys2Proof.Machine.execMxFunc s
  | .mxPlace => Sys2Proof.Machine.execMxPlace s
  | .maskEval k => Sys2Proof.Machine.execMaskEval k s
  | .maskSearch => Sys2Proof.Machine.execMaskSearch s
  | .maskApply k => Sys2Proof.Machine.execMaskApply k s
  | .bchFmt k e => Sys2Proof.Machine.execBchFmt k e s
  | .bchVer v => Sys2Proof.Machine.execBchVer v s
  | .fmtWrite k => Sys2Proof.Machine.execFmtWrite k s
  | .verWrite => Sys2Proof.Machine.execVerWrite s
  | .encode => Sys2Proof.Machine.execEncode s

end Sys2Proof.Machine
end

