-- ==== Sys2Proof/Machine/Engine.lean ====
section
/-! DEFINITION. The engine's step (30_encoding.md R118) and the schedule of the two agents (00_scope.md R9, log 1,
log 2). -/

namespace Sys2Proof.Machine

open Sys2Proof

/-- An illegal word completes with ILLEGAL_CMD and no other effect (R114): OP is the word's bits[7:0] (R37). -/
def execIllegal (w : Word) (s : State) : Host.Outcome State Fault Refusal :=
  conclude (opField w) s (.error .illegalCmd)

/-- The engine's one step while a command is latched: decode the latched word and run it (R117, R118). With no
command latched the engine has nothing to do. -/
def engineStep (s : State) : Host.Outcome State Fault Refusal :=
  match s.latch with
  | none => .next s
  | some o =>
    match decode o.word with
    | .ok i => exec i s
    | .error _ => execIllegal o.word s

/-- The state with its agenda replaced. -/
def State.withAgenda (s : State) (es : List Event) : State := { s with agenda := es }

/-- One event, in the state whose agenda holds what comes after it. -/
def handle (e : Event) (s : State) : Host.Outcome State Fault Refusal :=
  match e with
  | .host a => hostAccess s a
  | .engine => engineStep s
  | .hardReset => .next s.hardReset
  | .secondMaster _ => .refused .secondBusMaster

/-- One step of the machine: the oldest event of the agenda; with none left, the engine moves, so that a latched
command completes (R331), and an idle QRENC keeps its state (R297). -/
def advance (s : State) : Host.Outcome State Fault Refusal :=
  match s.agenda with
  | e :: es => handle e (s.withAgenda es)
  | [] => engineStep s

/-- The state with a command word accepted and the engine's turn next (log 11). -/
def State.withCommand (s : State) (w : Word) : State :=
  (s.accept w).withAgenda (.engine :: s.agenda)

end Sys2Proof.Machine
end

