-- ==== Sys2Proof/Machine/Step.lean ====
section
/-! DEFINITION. The machine's step, and where an instruction of the opcode table is put for the next step to run. -/

namespace Sys2Proof.Machine

open Sys2Proof

/-- One step of QRENC (00_scope.md R9). -/
def step (s : State) : Host.Outcome State Fault Refusal := advance s

/-- `s` with the command word of an opcode table row accepted (R117) and the engine's turn next, so that the very
next step runs it (log 11). -/
def State.withFetchWord (s : State) (nbits w : Nat) : State := s.withCommand (tableWord nbits w)

end Sys2Proof.Machine
end

