-- ==== Sys2Proof/Safety.lean ====
section
/-! DEFINITION. What counts as a safe run, the invariants of the machine, and the words the claims are stated in:
the rules of spec/ written a second time, as arithmetic over offsets, bits and polynomials, apart from the machine's
own code. -/

namespace Sys2Proof.Safety

open Sys2Proof Sys2Proof.Machine

/-- A step is safe when it ends in a next state: no model-only fault (R286) and no refusal. -/
def StepSafe (s : State) : Prop := ∃ t, step s = .next t

/-! ### Memory, as the claims read it -/

/-- The bytes from window offset `a` on are `bs`, and all written (R60). -/
abbrev Holds (m : Memory) (a : Nat) (bs : List Byte) : Prop := ∀ i < bs.length, m.read (a + i) = bs[i]?

/-- The `n` bytes from `a` on have their shadow written bits at 1 (R60). -/
abbrev Written (m : Memory) (a n : Nat) : Prop := ∀ i < n, (m.read (a + i)).isSome = true

/-- M[r][c] (R85). -/
def moduleAt (m : Memory) (r c : Nat) : Option Byte := m.read (0x8000 + 177 * r + c)

/-- Every module of the symbol of side `n` is written. -/
abbrev SymbolWritten (m : Memory) (n : Nat) : Prop := ∀ r < n, ∀ c < n, (moduleAt m r c).isSome = true

/-- The offset is one of the `len` offsets from `start` on. -/
abbrev Within (a start len : Nat) : Prop := start ≤ a ∧ a < start + len

/-- The offset is a module of the symbol of side `n` (R56, R85). -/
abbrev InSymbol (a n : Nat) : Prop := ∃ r < n, ∃ c < n, a = 0x8000 + 177 * r + c

/-- Two memories read alike outside a set of offsets. -/
def SameOutside (m m' : Memory) (p : Nat → Prop) : Prop := ∀ a, ¬ p a → m'.read a = m.read a

/-! ### The host bus (20_memory.md) -/

/-- A 32-bit host write. -/
def wordWrite (off : Nat) (w : Word) : Access := ⟨BitVec.ofNat 16 off, .word, .write w⟩

/-- A 32-bit host read. -/
def wordRead (off : Nat) : Access := ⟨BitVec.ofNat 16 off, .word, .read⟩

/-- The bytes an access covers (R80). -/
def accessBytes (a : Access) : Nat :=
  match a.size with
  | .byte => 1
  | .half => 2
  | .word => 4

/-- The offsets R31's table lists. -/
def csrListed (off : Nat) : Bool :=
  off % 4 == 0 && (off ≤ 0x080 || (0x0C0 ≤ off && off ≤ 0x0D8) || (0x100 ≤ off && off ≤ 0x17C) ||
    (0x200 ≤ off && off ≤ 0x278) || (0x280 ≤ off && off ≤ 0x2F4))

/-- R81's table: the number of the region of an offset. -/
def regionNumber (a : Nat) : Option Nat :=
  if a ≤ 0x0FFF then some 0
  else if a ≤ 0x1FFF then some 1
  else if a ≤ 0x2FFF then some 2
  else if a ≤ 0x3FFF then some 3
  else if 0x8000 ≤ a ∧ a ≤ 0xFA60 then some 4
  else none

/-- R87's four conditions: unmapped (R81, and R31 inside the CSR region), size not allowed, misaligned, or crossing a
region boundary. -/
abbrev ErrorAccess (a : Access) : Prop :=
  regionNumber a.addr.toNat = none ∨ (a.addr.toNat ≤ 0x0FFF ∧ csrListed a.addr.toNat = false) ∨
  (a.addr.toNat ≤ 0x0FFF ∧ accessBytes a ≠ 4) ∨
  a.addr.toNat % accessBytes a ≠ 0 ∨
  regionNumber (a.addr.toNat + accessBytes a - 1) ≠ regionNumber a.addr.toNat

/-- The named bits of each register (R31). -/
def namedBits (off : Nat) : Word :=
  if off = 0x004 then 0x3
  else if off = 0x00C then 0xFF1F
  else if off = 0x010 then 0xFFFF
  else if off = 0x014 then 0x33F
  else if off = 0x018 ∨ off = 0x01C ∨ off = 0x020 then 0xFFFF
  else if off = 0x024 then 0xFF
  else if off = 0x028 ∨ off = 0x03C then 0x3F
  else if off = 0x02C then 0x80000007
  else if off = 0x030 then 0x7FFF
  else if off = 0x034 then 0x3FFFF
  else if off = 0x038 ∨ off = 0x064 ∨ off = 0x068 then 0xFFF
  else if off = 0x060 ∨ off = 0x06C ∨ off = 0x07C then 0xFF
  else if off = 0x070 ∨ off = 0x074 then 0xFF00FF
  else if off = 0x078 ∨ off = 0x080 then 0x7
  else if 0x0C0 ≤ off ∧ off ≤ 0x0D8 then 0xFF
  else if 0x200 ≤ off ∧ off ≤ 0x2F4 then 0xFF
  else 0xFFFFFFFF

/-- The registers a host write can change (R31): all others are RO. -/
def hostWritable (off : Nat) : Bool :=
  off == 0x004 || off == 0x008 || off == 0x00C || off == 0x014 || off == 0x018 || off == 0x01C || off == 0x020

/-- The result CSRs of R321. -/
def resultOffset (off : Nat) : Bool :=
  (0x024 ≤ off && off ≤ 0x05C) || (0x100 ≤ off && off ≤ 0x2F4)

/-- The reset column of R31's table. -/
def resetValue (off : Nat) : Word :=
  if off = 0x000 then 0x51520001
  else if off = 0x014 then 0x00000101
  else if off = 0x060 then 21
  else if off = 0x064 then 26
  else if off = 0x068 then 16
  else if off = 0x06C then 10
  else if off = 0x070 then 0x00100001
  else if off = 0x07C then 1
  else 0

/-- What a host access reads: the data of an OK read, and none for anything else. -/
def readData (s : State) (off : Nat) : Option Word :=
  match hostAccess s (wordRead off) with
  | .next t =>
    match t.reply with
    | .data d => some d
    | .none => none
    | .written => none
  | .fault _ => none
  | .refused _ => none

/-! ### Error conditions (60_exceptions.md R281) -/

/-- The code of the first condition that holds, and 0x00 if none does (R120, R280). -/
def firstCode : List (Bool × Byte) → Byte
  | [] => 0x00
  | (holds, code) :: rest => if holds then code else firstCode rest

/-- BAD_CONFIG's condition (R280). -/
def badConfig (o : Latch) : Bool := o.version.toNat < 1 || 40 < o.version.toNat

/-- SEQUENCE's condition for a drawn matrix (R121). -/
def notDrawn (o : Latch) (s : State) : Bool := !s.res.funcDone || s.res.mxVersion != o.version

/-- The free data modules of the columns MX_PLACE visits, all but column 6 (R201): kind Data and asg 0, bits[3:1] of
the module byte all 0 (R56). -/
def freeModules (m : Memory) (n : Nat) : Nat :=
  ((List.range n).map fun r => (List.range n).countP fun c =>
    c != 6 && (moduleAt m r c).any fun b => b &&& 0x0E == 0).sum

/-- R281's table: the conditions of a command in order, each with its code. -/
def conditions (i : Instr) (o : Latch) (s : State) : List (Bool × Byte) :=
  match i with
  | .nop | .clear | .gfMul _ _ | .gfExp _ => []
  | .gfLog a | .gfInv a => [(a == 0, 0x04)]
  | .rsGen n => [(n.toNat == 0 || 30 < n.toNat, 0x03)]
  | .rsDiv => [(s.res.genDeg == 0, 0x05),
      (4096 < o.a0.toNat + o.a1.toNat || 4096 < o.a2.toNat + s.res.genDeg.toNat ||
        255 < o.a1.toNat + s.res.genDeg.toNat, 0x03)]
  | .rsSynd n => [(n.toNat == 0 || 30 < n.toNat || 4096 < o.a0.toNat + o.a1.toNat ||
        4096 < o.a2.toNat + n.toNat || 255 < o.a1.toNat + n.toNat, 0x03)]
  | .rsEncodeAll | .interleave | .mxFunc | .encode => [(badConfig o, 0x02)]
  | .mxPlace => [(badConfig o, 0x02), (notDrawn o s || s.res.placed, 0x06),
      (decide (SymbolWritten s.mem (side o.v)) &&
        freeModules s.mem (side o.v) != 8 * totalCw o.v + remBits o.v, 0x07)]
  | .maskEval k | .maskApply k | .fmtWrite k =>
    [(badConfig o, 0x02), (7 < k.toNat, 0x03), (notDrawn o s, 0x06)]
  | .maskSearch | .verWrite => [(badConfig o, 0x02), (notDrawn o s, 0x06)]
  | .bchFmt k e => [(7 < k.toNat || 3 < e.toNat, 0x03)]
  | .bchVer v => [(v.toNat < 7 || 40 < v.toNat, 0x03)]

/-- The code of a latched command's first error, ILLEGAL_CMD before all others, or 0x00 (R120, R281). -/
def expectedCode (o : Latch) (s : State) : Byte :=
  if legalWord o.word = false then 0x01
  else
    match decode o.word with
    | .ok i => firstCode (conditions i o s)
    | .error _ => 0x01

/-- The offsets a command may store to, from R312's list of write sets. -/
def StoreSet (i : Instr) (o : Latch) (s : State) (a : Nat) : Prop :=
  match i with
  | .rsDiv => Within a (0x2000 + o.a2.toNat) s.res.genDeg.toNat
  | .rsEncodeAll => Within a 0x2000 (numBlocks o.v o.e * eccPerBlk o.v o.e)
  | .interleave => Within a 0x3000 (totalCw o.v)
  | .mxFunc => Within a 0x8000 31329
  | .encode => Within a 0x8000 31329 ∨ Within a 0x2000 (numBlocks o.v o.e * eccPerBlk o.v o.e) ∨
      Within a 0x3000 (totalCw o.v)
  | .mxPlace | .maskApply _ | .fmtWrite _ | .verWrite => InSymbol a (side o.v)
  | .nop | .clear | .gfMul _ _ | .gfExp _ | .gfLog _ | .gfInv _ | .rsGen _ | .rsSynd _ | .maskEval _ | .maskSearch
  | .bchFmt _ _ | .bchVer _ => False

/-! ### Polynomials over GF(256) and GF(2) (R13, R150) -/

/-- The sum (bitwise XOR) of f 0, ..., f (n − 1). -/
def xorSum (n : Nat) (f : Nat → Byte) : Byte := (List.range n).foldl (fun acc i => acc ^^^ f i) 0

/-- α^k, the exponent taken modulo the order 255 of α (R150). -/
def alphaPow (k : Nat) : Byte := gfExp (k % 255)

/-- C(α^k) = Σ_t c[t]·α^(k·(N−1−t)), the first byte of c the highest-degree coefficient (R13, R157). -/
def valueAt (c : List Byte) (k : Nat) : Byte :=
  xorSum c.length fun t => gfMul (c.getD t 0) (alphaPow (k * (c.length - 1 - t)))

/-- The product of two polynomials, highest-degree coefficient first (R13). -/
def polyProduct (p q : List Byte) : List Byte :=
  (List.range (p.length + q.length - 1)).map fun k =>
    xorSum (k + 1) fun i => gfMul (p.getD i 0) (q.getD (k - i) 0)

/-- GEN[n], ..., GEN[0] with n = GEN_DEG: the generator, highest-degree coefficient first (R40). -/
def generatorOf (r : Results) : List Byte :=
  (List.range (r.genDeg.toNat + 1)).map fun t => r.gen.toList.getD (r.genDeg.toNat - t) 0

/-- The product of two polynomials over GF(2), as bit masks; `n` bounds the bits of `b`. -/
def binaryProduct (n a b : Nat) : Nat :=
  (List.range n).foldl (fun acc i => if b.testBit i then acc ^^^ (a <<< i) else acc) 0

/-! ### Blocks (R46) -/

/-- The data codewords of block b (R46). -/
def blockLen (v : Nat) (e : EccLevel) (b : Nat) : Nat := if b < g1Count v e then g1Data v e else g2Data v e

/-- The index in DCW of the first data codeword of block b (R180). -/
def blockStart (v : Nat) (e : EccLevel) (b : Nat) : Nat := ((List.range b).map (blockLen v e)).sum

/-- R181: where data codeword i of block b goes in CW. -/
def dataPosition (v : Nat) (e : EccLevel) (b i : Nat) : Nat :=
  if i < g1Data v e then i * numBlocks v e + b else g1Data v e * numBlocks v e + (b - g1Count v e)

/-- R181: where ECC codeword i of block b goes in CW. -/
def eccPosition (v : Nat) (e : EccLevel) (b i : Nat) : Nat := dataCw v e + i * numBlocks v e + b

/-! ### The zigzag (R201) -/

/-- The number of the column pair of column c, from the right: column 6 belongs to none (R201). -/
def pairIndex (n c : Nat) : Nat := if 6 < c then (n - 1 - c) / 2 else (n - 2 - c) / 2

/-- (r, c) is visited before (r', c') (R201): an earlier pair; or the same pair and an earlier row, pairs going up and
down in turn, the first up; or the same row, the right column first. -/
def VisitedBefore (n : Nat) (p q : Nat × Nat) : Prop :=
  pairIndex n p.2 < pairIndex n q.2 ∨
  (pairIndex n p.2 = pairIndex n q.2 ∧
    ((pairIndex n p.2 % 2 = 0 ∧ q.1 < p.1) ∨ (pairIndex n p.2 % 2 = 1 ∧ p.1 < q.1) ∨ (p.1 = q.1 ∧ q.2 < p.2)))

/-! ### Module bytes and penalties (R56, R220, R223 to R226) -/

/-- Maskable (R220), on the bits of R56: kind 00, or kind 10 or 11 with asg 0. -/
def maskable (b : Byte) : Bool := (!b.getLsbD 2 && !b.getLsbD 1) || (b.getLsbD 2 && !b.getLsbD 3)

/-- The module of X ⊕ mask_k (R220). -/
def maskedModule (k r c : Nat) (b : Byte) : Byte := if maskable b && maskPred k r c then b ^^^ 0x01 else b

/-- The colour of module (r, c) of a candidate. -/
def colourAt (x : Colors) (r c : Nat) : Bool := (x.getD r []).getD c false

/-- The candidate has n rows of n modules. -/
abbrev Square (n : Nat) (x : Colors) : Prop := x.length = n ∧ ∀ row ∈ x, row.length = n

/-- Module i of line j: row j for j < n, column j − n from there on (44_mask.md section 2). -/
def lineAt (n : Nat) (x : Colors) (j i : Nat) : Bool := if j < n then colourAt x j i else colourAt x i (j - n)

/-- The `len` modules from p on are a maximal run of one colour in a line of n modules (R223). -/
def maximalRun (n : Nat) (l : Nat → Bool) (p len : Nat) : Bool :=
  0 < len && p + len ≤ n && ((List.range len).all fun i => l (p + i) == l p) &&
    (p == 0 || l (p - 1) != l p) && (p + len == n || l (p + len) != l p)

/-- R223: 3 + (len − 5) for every maximal run of length 5 or more of every line. -/
def runScore (n : Nat) (x : Colors) : Nat :=
  ((List.range (2 * n)).map fun j => ((List.range n).map fun p => ((List.range (n + 1)).map fun len =>
    if maximalRun n (lineAt n x j) p len && 5 ≤ len then 3 + (len - 5) else 0).sum).sum).sum

/-- R224: 3 for every (r, c) that starts a uniform 2 × 2 block. -/
def blockScore (n : Nat) (x : Colors) : Nat :=
  3 * ((List.range (n - 1)).map fun r => (List.range (n - 1)).countP fun c =>
    colourAt x r c == colourAt x r (c + 1) && colourAt x r c == colourAt x (r + 1) c &&
      colourAt x r c == colourAt x (r + 1) (c + 1)).sum

/-- ℓ[x] of R225, any integer x: outside the line it is Light, or a value that matches nothing. -/
def cellAt (p : Params) (n : Nat) (l : Nat → Bool) (x : Int) : Option Bool :=
  if 0 ≤ x ∧ x < n then some (l x.toNat)
  else if p.rule3Outside = .light then some false else none

/-- The four modules from x on are all Light (R225). -/
def allLight (p : Params) (n : Nat) (l : Nat → Bool) (x : Int) : Bool :=
  (List.range 4).all fun i => cellAt p n l (x + i) == some false

/-- ℓ[q..q+6] = CORE (R225). -/
def coreAt (l : Nat → Bool) (q : Nat) : Bool :=
  l q && !l (q + 1) && l (q + 2) && l (q + 3) && l (q + 4) && !l (q + 5) && l (q + 6)

/-- The count of position q of a line (R225). -/
def marginCount (p : Params) (n : Nat) (l : Nat → Bool) (q : Nat) : Nat :=
  if p.rule3Mode = .window11 then
    (if allLight p n l (q + 7) then 1 else 0) + (if allLight p n l (q - 4) then 1 else 0)
  else if allLight p n l (q + 7) || allLight p n l (q - 4) then 1 else 0

/-- R225: 40 for every count of every core of every line. -/
def coreScore (p : Params) (n : Nat) (x : Colors) : Nat :=
  40 * ((List.range (2 * n)).map fun j => ((List.range (n - 6)).map fun q =>
    if coreAt (lineAt n x j) q then marginCount p n (lineAt n x j) q else 0).sum).sum

/-- The Dark modules of a candidate (R226). -/
def darkModules (n : Nat) (x : Colors) : Nat :=
  ((List.range n).map fun r => (List.range n).countP fun c => colourAt x r c).sum

/-- R226: 10 for every 5 % step, Δ = |20·dark − 10·total|. -/
def balanceScore (p : Params) (n : Nat) (x : Colors) : Nat :=
  let delta := (20 * (darkModules n x : Int) - 10 * (n * n : Int)).natAbs
  10 * if p.rule4Rounding = .floor then delta / (n * n) else (delta + n * n - 1) / (n * n) - 1

/-! ### Tables (R47, R251, R253) -/

/-- R47's formula RAW(V). -/
def rawFormula (v : Nat) : Int :=
  (16 * v + 128) * v + 64 - (if 2 ≤ v then (25 * ((v / 7 : Nat) + 2) - 10) * ((v / 7 : Nat) + 2) - 55 else 0) -
    (if 7 ≤ v then 36 else 0)

/-- R251's table: the row of a level, the column of a mask. -/
def formatTable : List (List Nat) := [
  [0x77C4, 0x72F3, 0x7DAA, 0x789D, 0x662F, 0x6318, 0x6C41, 0x6976],
  [0x5412, 0x5125, 0x5E7C, 0x5B4B, 0x45F9, 0x40CE, 0x4F97, 0x4AA0],
  [0x355F, 0x3068, 0x3F31, 0x3A06, 0x24B4, 0x2183, 0x2EDA, 0x2BED],
  [0x1689, 0x13BE, 0x1CE7, 0x19D0, 0x0762, 0x0255, 0x0D0C, 0x083B]]

/-- R253's table, versions 7 to 40, for VERSION_INFO_XOR = 0. -/
def versionTable : List Nat := [
  0x07C94, 0x085BC, 0x09A99, 0x0A4D3, 0x0BBF6, 0x0C762, 0x0D847, 0x0E60D, 0x0F928,
  0x10B78, 0x1145D, 0x12A17, 0x13532, 0x149A6, 0x15683, 0x168C9, 0x177EC, 0x18EC4,
  0x191E1, 0x1AFAB, 0x1B08E, 0x1CC1A, 0x1D33F, 0x1ED75, 0x1F250, 0x209D5, 0x216F0,
  0x228BA, 0x2379F, 0x24B0B, 0x2542E, 0x26A64, 0x27541, 0x28C69]

/-! ### Invariants -/

/-- The memory is in its one canonical form, holds bytes of the four RAMs only (R81), and the module bytes have
bits[7:4] = 0 (R56). -/
def MemoryInv (m : Memory) : Prop :=
  m.wf ∧ ∀ a b, m.read a = some b → (0x1000 ≤ a ∧ a ≤ 0x3FFF) ∨ (0x8000 ≤ a ∧ a ≤ 0xFA60 ∧ b.toNat < 16)

/-- GEN and GEN_DEG agree (R40): no generator and all 0, or a monic polynomial of degree 1 to 30 with zeros above. -/
def GeneratorInv (r : Results) : Prop :=
  (r.genDeg = 0 ∧ r.gen = Vector.replicate 31 0) ∨
  (1 ≤ r.genDeg.toNat ∧ r.genDeg.toNat ≤ 30 ∧ r.gen.toList.getD r.genDeg.toNat 0 = 0x01 ∧
    ∀ i, r.genDeg.toNat < i → r.gen.toList.getD i 0 = 0x00)

/-- PEN_TOTAL[k] is the sum of PEN_RULE[k] (R43), and SYNZ = 1 only when every SYND is 0 (R35, R41). -/
def ScoreInv (r : Results) : Prop :=
  (∀ k : Fin 8, r.penTotal[k] = r.penRule[k][0] + r.penRule[k][1] + r.penRule[k][2] + r.penRule[k][3]) ∧
  (r.synz = true → ∀ j : Fin 30, r.synd[j] = 0)

/-- The stage flags (R36, R42, R141, R190): MX_VERSION is 0 exactly when FUNC_DONE = 0 and else a legal version whose
drawn matrix RAM is written throughout; the later matrix flags need FUNC_DONE; CHOSEN.VALID is SEARCHED. -/
def StageInv (s : State) : Prop :=
  (s.res.funcDone = false → s.res.mxVersion = 0) ∧
  (s.res.funcDone = true → 1 ≤ s.res.mxVersion.toNat ∧ s.res.mxVersion.toNat ≤ 40 ∧ Written s.mem 0x8000 31329) ∧
  ((s.res.placed = true ∨ s.res.searched = true ∨ s.res.masked = true ∨ s.res.fmtDone = true ∨
    s.res.verDone = true) → s.res.funcDone = true) ∧
  s.res.chosenValid = s.res.searched

/-- The handshake (R34, R35, R117, R280): a command in flight is the one CMD shows, and no completion is pending; the
error code is one of R280's. -/
def HandshakeInv (s : State) : Prop :=
  (∀ o, s.latch = some o → s.cmd = o.word ∧ s.done = false) ∧ s.errCode.toNat ≤ 0x07

/-! ### Commands one after the other (R116, R271) -/

/-- `DO cmd` (R116) with no other host access in between: the acceptance of its word, the engine's step, and the
host's write of 1 to DONE. -/
def doCommand (i : Instr) (s : State) : Host.Outcome State Fault Refusal :=
  match exec i (s.accept (encode i)) with
  | .next t => .next (t.acknowledge true)
  | .fault f => .fault f
  | .refused r => .refused r

end Sys2Proof.Safety
end

