-- ==== Sys2Proof/Certificates/Slice0/Obligations.lean ====
section
/-! DEFINITION. The statements for the provers, each from the rules of spec/ its docstring names. Where a statement gives
the whole next state of a host access, the field reply is the model's own record of R80's answer (log 10), and the
fields agenda and draws are the model's own too (log 1, log 5). -/

open Sys2Proof Sys2Proof.Machine Sys2Proof.Safety

/-! ### Encoding (30_encoding.md) -/

/-- R110, R111, R113: no bit of a command is lost between its word and its fields. -/
def Obligations.DecodeAfterEncode : Prop := ∀ i : Instr, decode (encode i) = .ok i

/-- R110 to R114: the words the decoder takes are exactly the legal ones, and each is the word of its command. -/
def Obligations.LegalWordsAreTheCommands : Prop :=
  ∀ w : Word, (legalWord w = true ↔ ∃ i, decode w = .ok i) ∧ ∀ i, decode w = .ok i → encode i = w

/-- R113 and the examples of the command rules: one word of each command. -/
def Obligations.SpecWordsDecode : Prop :=
  decode 0x00000000 = .ok .nop ∧ decode 0x00000001 = .ok .clear ∧ decode 0x00CA5308 = .ok (.gfMul 0x53 0xCA) ∧
  decode 0x00001909 = .ok (.gfExp 25) ∧ decode 0x00001D0A = .ok (.gfLog 0x1D) ∧
  decode 0x0000530B = .ok (.gfInv 0x53) ∧ decode 0x00000710 = .ok (.rsGen 7) ∧ decode 0x00000011 = .ok .rsDiv ∧
  decode 0x00000312 = .ok (.rsSynd 3) ∧ decode 0x00000013 = .ok .rsEncodeAll ∧ decode 0x00000018 = .ok .interleave ∧
  decode 0x00000020 = .ok .mxFunc ∧ decode 0x00000021 = .ok .mxPlace ∧ decode 0x00000628 = .ok (.maskEval 6) ∧
  decode 0x00000029 = .ok .maskSearch ∧ decode 0x0000062A = .ok (.maskApply 6) ∧
  decode 0x00020630 = .ok (.bchFmt 6 2) ∧ decode 0x00002831 = .ok (.bchVer 40) ∧
  decode 0x00000632 = .ok (.fmtWrite 6) ∧ decode 0x00000033 = .ok .verWrite ∧ decode 0x0000003F = .ok .encode

/-! ### The step, issue and completion (30_encoding.md, 60_exceptions.md) -/

/-- R9, R118: a step whose turn is the engine's runs the decoded latched command, and every other event is what the
model's agenda (log 1, log 2) says: a host access, the reset input, a refused second master (R300), and nothing to
do for an idle engine (R297). -/
def Obligations.StepRunsTheLatchedCommand : Prop :=
  ∀ (s : State) (es : List Event),
    (∀ o i, s.latch = some o → decode o.word = .ok i →
      (s.agenda = .engine :: es → step s = exec i (s.withAgenda es)) ∧ (s.agenda = [] → step s = exec i s)) ∧
    (s.latch = none → (s.agenda = .engine :: es → step s = .next (s.withAgenda es)) ∧
      (s.agenda = [] → step s = .next s)) ∧
    (∀ a, s.agenda = .host a :: es → step s = hostAccess (s.withAgenda es) a) ∧
    (s.agenda = .hardReset :: es → step s = .next (s.withAgenda es).hardReset) ∧
    (∀ a, s.agenda = .secondMaster a :: es → step s = .refused .secondBusMaster)

/-- R118, R331: the engine's turn ends the flight of the latched command, whatever its word; it records the word's
bits[7:0] and a code of R280. -/
def Obligations.EngineTurnEndsTheFlight : Prop :=
  ∀ (s : State) (o : Latch) (t : State), s.latch = some o → engineStep s = .next t →
    t.latch = none ∧ t.done = true ∧ t.errOp = o.word.extractLsb' 0 8 ∧ t.errCode.toNat ≤ 0x07

/-- R114: which words are illegal; each is accepted as a command, and completes with ILLEGAL_CMD and no other
effect. -/
def Obligations.IllegalWordsComplete : Prop :=
  (∀ w : Word, legalWord w = false ↔
    (opField w ∉ [0x00, 0x01, 0x11, 0x13, 0x18, 0x20, 0x21, 0x29, 0x33, 0x3F] ∨ w.extractLsb' 8 24 ≠ 0) ∧
    (opField w ∉ [0x09, 0x0A, 0x0B, 0x10, 0x12, 0x28, 0x2A, 0x31, 0x32] ∨ w.extractLsb' 16 16 ≠ 0) ∧
    (opField w ∉ [0x08, 0x30] ∨ w.extractLsb' 24 8 ≠ 0)) ∧
  (∀ op : Byte, (op.toNat ∈ [0x02, 0x03, 0x04, 0x05, 0x06, 0x07] ∨ (0x0C ≤ op.toNat ∧ op.toNat ≤ 0x0F) ∨
    (0x14 ≤ op.toNat ∧ op.toNat ≤ 0x17) ∨ (0x19 ≤ op.toNat ∧ op.toNat ≤ 0x1F) ∨
    (0x22 ≤ op.toNat ∧ op.toNat ≤ 0x27) ∨ (0x2B ≤ op.toNat ∧ op.toNat ≤ 0x2F) ∨
    (0x34 ≤ op.toNat ∧ op.toNat ≤ 0x3E) ∨ 0x40 ≤ op.toNat) →
    ∀ w : Word, opField w = op → legalWord w = false) ∧
  ∀ w : Word, legalWord w = false →
    (∀ s : State, s.latch = none → ∃ t, hostAccess s (wordWrite 0x008 w) = .next t ∧ t.latch = some (s.latchOf w)) ∧
    ∀ (s : State) (o : Latch), s.latch = some o → o.word = w →
      engineStep s = .next { s with errCode := 0x01, errOp := w.extractLsb' 0 8, done := true, latch := none }

/-- R35, R36, R62, R118, R270: the completion of a command writes its record and leaves CTRL, CMD, OVR, CONFIG and
ARG0 to ARG2, and the model's own fields, as they were. -/
def Obligations.CompletionLeavesHostRegisters : Prop :=
  ∀ (i : Instr) (s t : State), exec i s = .next t →
    t.errOp = opcode i ∧ t.done = true ∧ t.latch = none ∧ t.ie = s.ie ∧ t.cmd = s.cmd ∧ t.ovr = s.ovr ∧
    t.version = s.version ∧ t.ecl = s.ecl ∧ t.arg0 = s.arg0 ∧ t.arg1 = s.arg1 ∧ t.arg2 = s.arg2 ∧
    t.params = s.params ∧ t.agenda = s.agenda ∧ t.reply = s.reply ∧ t.draws = s.draws

/-- R119, R120, R281: a latched command whose first failing condition has a code completes with that code and writes
its record alone; a command with no failing condition that completes does so with code 0. (MX_PLACE's count has an
answer only where every module of the symbol is written: log 15.) -/
def Obligations.ErrorsFollowTheTable : Prop :=
  ∀ (s : State) (o : Latch), s.mem.wf → s.latch = some o →
    (expectedCode o s ≠ 0x00 → engineStep s = .next
      { s with errCode := expectedCode o s, errOp := o.word.extractLsb' 0 8, done := true, latch := none }) ∧
    (expectedCode o s = 0x00 → ∀ t, engineStep s = .next t → t.errCode = 0x00)

/-- R118, R286, R331: a command completes, or reads an unwritten byte; no command is refused, and the commands that
read no RAM always complete. -/
def Obligations.CommandsStopOnlyOnUnwrittenBytes : Prop :=
  ∀ (i : Instr) (s : State),
    ((∃ t, exec i s = .next t) ∨ exec i s = .fault .uninitRead) ∧
    (opcode i ∉ [0x11, 0x12, 0x13, 0x18, 0x21, 0x28, 0x29, 0x2A, 0x3F] → ∃ t, exec i s = .next t)

/-- R98, R312, R56, R230, R231, R252, R256: a command that completes leaves every byte outside its store set as it
was; the store set of the commands that store nothing is empty. -/
def Obligations.CommandsStoreOnlyInTheirSet : Prop :=
  ∀ (i : Instr) (s : State) (o : Latch) (t : State), s.latch = some o → exec i s = .next t →
    SameOutside s.mem t.mem (StoreSet i o s)

/-- R35, R36, R40 to R43: which commands, by opcode, write each result register and each flag; every other command
leaves it. -/
def Obligations.ResultRegistersHaveTheirWriters : Prop :=
  ∀ (i : Instr) (s t : State), exec i s = .next t →
    (opcode i ∉ [0x01, 0x08, 0x09, 0x0A, 0x0B] → t.res.gfRes = s.res.gfRes) ∧
    (opcode i ∉ [0x01, 0x10, 0x13, 0x3F] → t.res.genDeg = s.res.genDeg ∧ t.res.gen = s.res.gen) ∧
    (opcode i ∉ [0x01, 0x12] → t.res.synd = s.res.synd ∧ t.res.synz = s.res.synz) ∧
    (opcode i ∉ [0x01, 0x29, 0x3F] → t.res.chosenMask = s.res.chosenMask) ∧
    (opcode i ∉ [0x01, 0x20, 0x29, 0x3F] →
      t.res.chosenValid = s.res.chosenValid ∧ t.res.searched = s.res.searched) ∧
    (opcode i ∉ [0x01, 0x30, 0x32, 0x3F] → t.res.fmtWord = s.res.fmtWord) ∧
    (opcode i ∉ [0x01, 0x31, 0x33, 0x3F] → t.res.verWord = s.res.verWord) ∧
    (opcode i ∉ [0x01, 0x18, 0x3F] → t.res.cwLen = s.res.cwLen) ∧
    (opcode i ∉ [0x01, 0x20, 0x3F] → t.res.mxVersion = s.res.mxVersion ∧ t.res.funcDone = s.res.funcDone) ∧
    (opcode i ∉ [0x01, 0x28, 0x29, 0x3F] → t.res.penRule = s.res.penRule ∧ t.res.penTotal = s.res.penTotal) ∧
    (opcode i ∉ [0x01, 0x13, 0x3F] → t.res.eccDone = s.res.eccDone) ∧
    (opcode i ∉ [0x01, 0x13, 0x18, 0x3F] → t.res.ilvDone = s.res.ilvDone) ∧
    (opcode i ∉ [0x01, 0x20, 0x21, 0x3F] → t.res.placed = s.res.placed) ∧
    (opcode i ∉ [0x01, 0x20, 0x2A, 0x3F] → t.res.masked = s.res.masked) ∧
    (opcode i ∉ [0x01, 0x20, 0x32, 0x3F] → t.res.fmtDone = s.res.fmtDone) ∧
    (opcode i ∉ [0x01, 0x20, 0x33, 0x3F] → t.res.verDone = s.res.verDone)

/-- R117, R34: a CMD write while idle is accepted and latches the operands; while busy it is discarded and sets OVR;
a read of CMD gives the last accepted word, 0 after reset. (The field reply is the model's own,
log 10.) -/
def Obligations.CmdWriteIssues : Prop :=
  ∀ (s : State) (w : Word),
    (s.latch = none → hostAccess s (wordWrite 0x008 w) = .next
      { s with
        cmd := w, done := false, reply := .written,
        latch := some { word := w, version := s.version, ecl := s.ecl, a0 := s.arg0, a1 := s.arg1, a2 := s.arg2 } }) ∧
    (s.latch ≠ none → hostAccess s (wordWrite 0x008 w) = .next { s with ovr := true, reply := .written }) ∧
    readData s 0x008 = some s.cmd ∧ readData State.reset 0x008 = some 0

/-- R63: irq = IE ∧ DONE; it falls when the host clears DONE, clears IE, or issues a command. -/
def Obligations.IrqFollowsDoneAndEnable : Prop :=
  ∀ (s : State) (w : Word),
    s.irq = (s.ie && s.done) ∧
    (w.getLsbD 1 = true → ∃ t, hostAccess s (wordWrite 0x00C w) = .next t ∧ t.irq = false) ∧
    (w.getLsbD 0 = false → ∃ t, hostAccess s (wordWrite 0x004 w) = .next t ∧ t.irq = false) ∧
    (s.latch = none → ∃ t, hostAccess s (wordWrite 0x008 w) = .next t ∧ t.irq = false)

/-! ### Registers and the host bus (10_state.md, 20_memory.md, 70_reset_and_hazards.md) -/

/-- R31, R35 to R43: what an idle QRENC's registers read. -/
def Obligations.RegistersReadTheState : Prop :=
  ∀ s : State, s.latch = none →
    readData s 0x000 = some 0x51520001 ∧
    readData s 0x004 = some (if s.ie then 1 else 0) ∧
    readData s 0x008 = some s.cmd ∧
    (∃ d, readData s 0x00C = some d ∧ ∀ i < 32, d.getLsbD i =
      [false, s.done, s.errCode != 0, s.ovr, s.res.synz, false, false, false, s.res.eccDone, s.res.ilvDone,
        s.res.funcDone, s.res.placed, s.res.searched, s.res.masked, s.res.fmtDone, s.res.verDone].getD i false) ∧
    readData s 0x010 = some (BitVec.ofNat 32 (s.errCode.toNat + 256 * s.errOp.toNat)) ∧
    readData s 0x014 = some (BitVec.ofNat 32 (s.version.toNat + 256 * s.ecl.toNat)) ∧
    readData s 0x018 = some (BitVec.ofNat 32 s.arg0.toNat) ∧
    readData s 0x01C = some (BitVec.ofNat 32 s.arg1.toNat) ∧
    readData s 0x020 = some (BitVec.ofNat 32 s.arg2.toNat) ∧
    readData s 0x024 = some (BitVec.ofNat 32 s.res.gfRes.toNat) ∧
    readData s 0x028 = some (BitVec.ofNat 32 s.res.genDeg.toNat) ∧
    readData s 0x02C = some (BitVec.ofNat 32 (s.res.chosenMask.toNat + if s.res.chosenValid then 2 ^ 31 else 0)) ∧
    readData s 0x030 = some (BitVec.ofNat 32 s.res.fmtWord.toNat) ∧
    readData s 0x034 = some (BitVec.ofNat 32 s.res.verWord.toNat) ∧
    readData s 0x038 = some (BitVec.ofNat 32 s.res.cwLen.toNat) ∧
    readData s 0x03C = some (BitVec.ofNat 32 s.res.mxVersion.toNat) ∧
    (∀ k : Fin 8, readData s (0x040 + 4 * k) = some s.res.penTotal[k]) ∧
    (∀ (k : Fin 8) (j : Fin 4), readData s (0x100 + 16 * k + 4 * j) = some s.res.penRule[k][j]) ∧
    (∀ i : Fin 31, readData s (0x200 + 4 * i) = some (BitVec.ofNat 32 s.res.gen[i].toNat)) ∧
    (∀ j : Fin 30, readData s (0x280 + 4 * j) = some (BitVec.ofNat 32 s.res.synd[j].toNat))

/-- R50: reserved bits read 0 and ignore writes, RO registers and RO fields ignore writes, and an access to a defined
offset never stops, whatever it carries. That the reserved bits of a result CSR read 0 while BUSY = 1 too, where R321
and U5 leave the read any value, is the model's choice (log 4, DEDUCED from R50). (The field reply is the model's own,
log 10.) -/
def Obligations.ReservedBitsAndReadOnlyFields : Prop :=
  ∀ (s : State) (off : Nat), csrListed off = true →
    (∃ d, readData s off = some d ∧ d &&& ~~~ namedBits off = 0) ∧
    (∀ w : Word, ∃ t, hostAccess s (wordWrite off w) = .next t) ∧
    (∀ w : Word, hostAccess s (wordWrite off w) = hostAccess s (wordWrite off (w &&& namedBits off))) ∧
    (∀ w : Word, hostAccess s (wordWrite 0x00C w) = hostAccess s (wordWrite 0x00C (w &&& 0x0000000A))) ∧
    (hostWritable off = false → ∀ w : Word, hostAccess s (wordWrite off w) = .next { s with reply := .written }) ∧
    (∀ op es, s.agenda = .host ⟨BitVec.ofNat 16 off, .word, op⟩ :: es → StepSafe s)

/-- R33, R35, R38, R39: what a write to CTRL (with SRST 0), STATUS, CONFIG and ARG0 to ARG2 does, and what they read
afterwards. -/
def Obligations.HostRegistersTakeWrites : Prop :=
  ∀ (s : State) (w : Word),
    (w.getLsbD 1 = false →
      hostAccess s (wordWrite 0x004 w) = .next { s with ie := w.getLsbD 0, reply := .written } ∧
      readData { s with ie := w.getLsbD 0 } 0x004 = some (w &&& 0x1)) ∧
    hostAccess s (wordWrite 0x00C w) = .next
      { s with done := s.done && !w.getLsbD 1, ovr := s.ovr && !w.getLsbD 3, reply := .written } ∧
    hostAccess s (wordWrite 0x014 w) = .next
      { s with version := w.extractLsb' 0 6, ecl := w.extractLsb' 8 2, reply := .written } ∧
    readData { s with version := w.extractLsb' 0 6, ecl := w.extractLsb' 8 2 } 0x014 = some (w &&& 0x33F) ∧
    hostAccess s (wordWrite 0x018 w) = .next { s with arg0 := w.extractLsb' 0 16, reply := .written } ∧
    hostAccess s (wordWrite 0x01C w) = .next { s with arg1 := w.extractLsb' 0 16, reply := .written } ∧
    hostAccess s (wordWrite 0x020 w) = .next { s with arg2 := w.extractLsb' 0 16, reply := .written } ∧
    readData { s with arg0 := w.extractLsb' 0 16 } 0x018 = some (w &&& 0xFFFF) ∧
    readData { s with arg1 := w.extractLsb' 0 16 } 0x01C = some (w &&& 0xFFFF) ∧
    readData { s with arg2 := w.extractLsb' 0 16 } 0x020 = some (w &&& 0xFFFF)

/-- R322: CSR writes while a command is in flight. (The field reply is the model's own,
log 10.) -/
def Obligations.CsrWritesWhileBusy : Prop :=
  ∀ (s : State) (o : Latch) (w : Word), s.latch = some o →
    hostAccess s (wordWrite 0x008 w) = .next { s with ovr := true, reply := .written } ∧
    (∃ t, hostAccess s (wordWrite 0x014 w) = .next t ∧ t.version = w.extractLsb' 0 6 ∧ t.ecl = w.extractLsb' 8 2 ∧
      t.latch = some o) ∧
    (∃ t, hostAccess s (wordWrite 0x018 w) = .next t ∧ t.arg0 = w.extractLsb' 0 16 ∧ t.latch = some o) ∧
    (∃ t, hostAccess s (wordWrite 0x01C w) = .next t ∧ t.arg1 = w.extractLsb' 0 16 ∧ t.latch = some o) ∧
    (∃ t, hostAccess s (wordWrite 0x020 w) = .next t ∧ t.arg2 = w.extractLsb' 0 16 ∧ t.latch = some o) ∧
    (w.getLsbD 1 = false → hostAccess s (wordWrite 0x004 w) = .next { s with ie := w.getLsbD 0, reply := .written }) ∧
    (w.getLsbD 1 = true → hostAccess s (wordWrite 0x004 w) = .next (s.softReset.answer .written)) ∧
    hostAccess s (wordWrite 0x00C w) = .next
      { s with done := s.done && !w.getLsbD 1, ovr := s.ovr && !w.getLsbD 3, reply := .written } ∧
    ∀ off, csrListed off = true → hostWritable off = false →
      hostAccess s (wordWrite off w) = .next { s with reply := .written }

/-- R88, R321: a read changes nothing but the model's own answer and count of draws (log 5, log 10); while a command
is in flight, the registers that are no result CSR read as ever, STATUS but for its BUSY bit. -/
def Obligations.ReadsHaveNoSideEffect : Prop :=
  ∀ s : State,
    (∀ a t, a.op = .read → hostAccess s a = .next t → t = { s with reply := t.reply, draws := t.draws } ∧
      (s.latch = none → t.draws = s.draws)) ∧
    (∀ off, csrListed off = true → resultOffset off = false → off ≠ 0x00C →
      readData s off = readData { s with latch := none } off) ∧
    (s.latch ≠ none → (readData s 0x00C).map (fun d => d &&& ~~~ 1#32) = readData { s with latch := none } 0x00C ∧
      (readData s 0x00C).map (fun d => d.getLsbD 0) = some true)

/-- R44: the INFO registers and ALIGN views at the current CONFIG, and 0 for an illegal version. -/
def Obligations.InfoRegistersShowTheTables : Prop :=
  ∀ s : State,
    (¬ (1 ≤ s.version.toNat ∧ s.version.toNat ≤ 40) → ∀ off, csrListed off = true →
      ((0x060 ≤ off ∧ off ≤ 0x080) ∨ (0x0C0 ≤ off ∧ off ≤ 0x0D8)) → readData s off = some 0) ∧
    (1 ≤ s.version.toNat ∧ s.version.toNat ≤ 40 → ∀ v e, v = s.version.toNat → e = eccLevel s.ecl →
      readData s 0x060 = some (BitVec.ofNat 32 (4 * v + 17)) ∧
      readData s 0x064 = some (BitVec.ofNat 32 (totalCw v)) ∧
      readData s 0x068 = some (BitVec.ofNat 32 (dataCw v e)) ∧
      readData s 0x06C = some (BitVec.ofNat 32 (eccPerBlk v e)) ∧
      readData s 0x070 = some (BitVec.ofNat 32 (g1Count v e + 65536 * g1Data v e)) ∧
      readData s 0x074 = some (BitVec.ofNat 32
        (g2Count v e + 65536 * if g2Count v e = 0 then 0 else g2Data v e)) ∧
      readData s 0x078 = some (BitVec.ofNat 32 (remBits v)) ∧
      readData s 0x07C = some (BitVec.ofNat 32 (numBlocks v e)) ∧
      readData s 0x080 = some (BitVec.ofNat 32 (alignCoords v).length) ∧
      ∀ i < 7, readData s (0x0C0 + 4 * i) = some (BitVec.ofNat 32 ((alignCoords v).getD i 0)))

/-- R46, R47, R49: the tables agree with the formulas the rules give beside them, and the blocks add up. -/
def Obligations.RomTablesAgreeWithTheirFormulas : Prop :=
  ∀ v, 1 ≤ v → v ≤ 40 →
    8 * totalCw v + remBits v = rawFormula v ∧ remBits v < 8 ∧
    (∀ e, 1 ≤ g1Data v e ∧ g1Data v e + 1 + eccPerBlk v e ≤ 255 ∧ eccPerBlk v e ≤ 30 ∧
      g1Count v e * g1Data v e + g2Count v e * g2Data v e = dataCw v e ∧
      dataCw v e + eccPerBlk v e * numBlocks v e = totalCw v) ∧
    (v = 1 → alignCoords v = []) ∧
    (2 ≤ v → alignCoords v = 6 :: (List.range (v / 7 + 1)).map fun t =>
      4 * v + 17 - 7 - 2 * ((8 * v + 3 * (v / 7 + 2) + 5) / (4 * (v / 7 + 2) - 4)) * (v / 7 + 2 - 2 - t))

/-- R87, R83, R84: the accesses that complete with ERROR. -/
def Obligations.BusErrorsExactly : Prop :=
  ∀ (s : State) (a : Access), hostAccess s a = .fault .busError ↔ ErrorAccess a

/-- R320: a host access to a RAM while BUSY = 1 is a hazard, whatever the command in flight. That such an access which
also completes with ERROR (R87) is the fault BusError and no hazard is the model's choice (log 9, DEDUCED). -/
def Obligations.HazardsExactly : Prop :=
  ∀ (s : State) (a : Access),
    hostAccess s a = .fault .hazard ↔ ¬ ErrorAccess a ∧ 0x1000 ≤ a.addr.toNat ∧ s.latch ≠ none

/-- R60: a host read of an idle QRENC faults exactly where a byte it covers was never written. That a read of an
unwritten byte which is also a bus error (R87) or a hazard (R320) is that fault and no UninitRead is the model's choice
(log 9, DEDUCED). -/
def Obligations.UninitReadsExactly : Prop :=
  ∀ (s : State) (a : Access), s.mem.wf →
    (hostAccess s a = .fault .uninitRead ↔ ¬ ErrorAccess a ∧ 0x1000 ≤ a.addr.toNat ∧ s.latch = none ∧
      a.op = .read ∧ ∃ i < accessBytes a, s.mem.read (a.addr.toNat + i) = none)

/-- R82, R86: RAM accesses are little-endian, store and return each byte, and store 0 in bits[7:4] of a module. -/
def Obligations.RamAccessesAreLittleEndian : Prop :=
  ∀ (s : State) (a : Access) (mask : Byte), s.mem.wf → ¬ ErrorAccess a → 0x1000 ≤ a.addr.toNat → s.latch = none →
    mask = (if 0x8000 ≤ a.addr.toNat then 0x0F else 0xFF) →
    (∀ w, a.op = .write w → ∃ m, hostAccess s a = .next { s with mem := m, reply := .written } ∧
      (∀ i < accessBytes a, m.read (a.addr.toNat + i) = some (w.extractLsb' (8 * i) 8 &&& mask)) ∧
      SameOutside s.mem m fun x => Within x a.addr.toNat (accessBytes a)) ∧
    (∀ bs, a.op = .read → bs.length = accessBytes a → Holds s.mem a.addr.toNat bs →
      hostAccess s a = .next { s with reply := .data (BitVec.ofNat 32
        ((List.range bs.length).map fun i => (bs.getD i 0 &&& mask).toNat * 256 ^ i).sum) })

/-- R60, R312: a written byte stays written, but for the reset input and for a soft reset that aborts a command. -/
def Obligations.WrittenBytesStayWritten : Prop :=
  ∀ (s t : State) (a : Nat), step s = .next t → (s.mem.read a).isSome = true →
    (t.mem.read a).isSome = true ∨ (∃ es, s.agenda = .hardReset :: es) ∨
    ∃ es w, s.agenda = .host (wordWrite 0x004 w) :: es ∧ w.getLsbD 1 = true ∧ s.latch ≠ none

/-! ### Reset (70_reset_and_hazards.md) -/

/-- R310: the reset input and the state right after reset. -/
def Obligations.HardResetState : Prop :=
  ∀ t : State, (t = State.reset ∨ ∃ s es, s.agenda = .hardReset :: es ∧ step s = .next t) →
    (∀ off, csrListed off = true → readData t off = some (resetValue off)) ∧
    t.latch = none ∧ t.irq = false ∧ ∀ a, t.mem.read a = none

/-- R311: the soft reset, with R312's exception for the RAMs. (The field reply is the model's own,
log 10.) -/
def Obligations.SoftResetClearsEveryCsr : Prop :=
  ∀ (s : State) (w : Word), w.getLsbD 1 = true →
    ∃ m, hostAccess s (wordWrite 0x004 w) = .next { State.reset with
        mem := m, params := s.params, agenda := s.agenda, reply := .written, draws := s.draws } ∧
      (∀ a, m.read a = s.mem.read a ∨ (s.latch ≠ none ∧ m.read a = none)) ∧ (s.latch = none → m = s.mem) ∧
      ∀ t : State, hostAccess s (wordWrite 0x004 w) = .next t → t.irq = false ∧
        ∀ off, csrListed off = true → readData t off = some (resetValue off)

/-- R312: the abort makes unwritten exactly the write set of a command whose checks pass. (Where MX_PLACE's count has
no answer because a module it looks at is unwritten, no condition of expectedCode holds: log 16's choice.) -/
def Obligations.AbortForgetsTheWriteSet : Prop :=
  ∀ (s : State) (o : Latch) (w : Word) (t : State), s.mem.wf → s.latch = some o → w.getLsbD 1 = true →
    hostAccess s (wordWrite 0x004 w) = .next t →
    (∀ i a, decode o.word = .ok i → expectedCode o s = 0x00 → StoreSet i o s a → t.mem.read a = none) ∧
    ∀ a, (¬ ∃ i, decode o.word = .ok i ∧ expectedCode o s = 0x00 ∧ StoreSet i o s a) →
      t.mem.read a = s.mem.read a

/-! ### Invariants -/

/-- R30, R310: the state after reset meets every invariant below. -/
def Obligations.InvariantsHoldAtReset : Prop :=
  MemoryInv State.reset.mem ∧ GeneratorInv State.reset.res ∧ ScoreInv State.reset.res ∧ StageInv State.reset ∧
    HandshakeInv State.reset

/-- R56, R81, R86, R98: every step keeps the memory canonical, inside the four RAMs, and its module bytes below 16. -/
def Obligations.StepKeepsMemoryInv : Prop :=
  ∀ s t : State, MemoryInv s.mem → step s = .next t → MemoryInv t.mem

/-- R40, R41, R43, R35: every step keeps GEN a monic polynomial of degree GEN_DEG or empty, PEN_TOTAL the sum of
PEN_RULE, and SYNZ true to SYND. -/
def Obligations.StepKeepsResultInv : Prop :=
  ∀ s t : State, GeneratorInv s.res → ScoreInv s.res → step s = .next t → GeneratorInv t.res ∧ ScoreInv t.res

/-- R36, R42, R121, R190, R141: every step keeps the stage flags and MX_VERSION consistent. -/
def Obligations.StepKeepsStageInv : Prop :=
  ∀ s t : State, StageInv s → step s = .next t → StageInv t

/-- R34, R35, R117, R280: every step keeps the handshake. -/
def Obligations.StepKeepsHandshakeInv : Prop :=
  ∀ s t : State, HandshakeInv s → step s = .next t → HandshakeInv t

/-! ### Control and GF(256) commands (40_control.md, 41_gf_rs.md) -/

/-- R140, R141, R151, R152, R153, R155: NOP, CLEAR and the GF commands complete, each with its result; the inverse
is one, and EXP undoes LOG. -/
def Obligations.ControlAndGfCommandsComplete : Prop :=
  ∀ s : State,
    exec .nop s = .next { s with errCode := 0x00, errOp := 0x00, done := true, latch := none } ∧
    exec .clear s = .next
      { s with res := Results.zero, errCode := 0x00, errOp := 0x01, done := true, latch := none } ∧
    (∀ a b, exec (.gfMul a b) s = .next
      { s with res := { s.res with gfRes := gfMul a b }, errCode := 0x00, errOp := 0x08, done := true, latch := none }) ∧
    (∀ k, exec (.gfExp k) s = .next
      { s with res := { s.res with gfRes := gfExp (k.toNat % 255) }, errCode := 0x00, errOp := 0x09, done := true,
               latch := none }) ∧
    (∀ a, a ≠ 0 → ∃ k, k < 255 ∧ gfExp k = a ∧ exec (.gfLog a) s = .next
      { s with res := { s.res with gfRes := BitVec.ofNat 8 k }, errCode := 0x00, errOp := 0x0A, done := true,
               latch := none }) ∧
    (∀ a, a ≠ 0 → ∃ b, gfMul a b = 0x01 ∧ exec (.gfInv a) s = .next
      { s with res := { s.res with gfRes := b }, errCode := 0x00, errOp := 0x0B, done := true, latch := none })

/-- R150: the field. The product is the polynomial product modulo 0x11D; α is primitive; the laws of ⊗, the table
identity and distributivity. -/
def Obligations.GfFieldLaws : Prop :=
  (∀ a b, ∃ q < 128, binaryProduct 8 a.toNat b.toNat = binaryProduct 7 0x11D q ^^^ (gfMul a b).toNat) ∧
  (∀ a, a ≠ 0 → ∃ k < 255, gfExp k = a ∧ gfLog a = k ∧ ∀ j < 255, gfExp j = a → j = k) ∧
  (∀ k < 255, gfExp k ≠ 0) ∧ gfExp 0 = 0x01 ∧ gfExp 255 = 0x01 ∧ (∀ k, gfExp (k + 1) = gfMul (gfExp k) 0x02) ∧
  (∀ a b, gfMul a b = gfMul b a) ∧ (∀ a, gfMul a 0x00 = 0x00) ∧ (∀ a, gfMul a 0x01 = a) ∧
  (∀ a b, a ≠ 0 → b ≠ 0 → gfMul a b = gfExp ((gfLog a + gfLog b) % 255)) ∧
  (∀ a b c, gfMul a (b ^^^ c) = gfMul a b ^^^ gfMul a c)

/-! ### Reed-Solomon commands (41_gf_rs.md) -/

/-- R154, R40: RS_GEN n completes with GEN the product of the (x − α^j), j < n: monic, zero above degree n, and 0 at
every α^j. -/
def Obligations.RsGenBuildsTheGenerator : Prop :=
  ∀ (s : State) (n : Byte), 1 ≤ n.toNat → n.toNat ≤ 30 → ∃ r : Results,
    exec (.rsGen n) s = .next { s with res := r, errCode := 0x00, errOp := 0x10, done := true, latch := none } ∧
    r = { s.res with gen := r.gen, genDeg := n.setWidth 6 } ∧
    generatorOf r = (List.range n.toNat).foldl (fun p j => polyProduct p [0x01, alphaPow j]) [0x01] ∧
    r.gen.toList.getD n.toNat 0 = 0x01 ∧ (∀ i, n.toNat < i → r.gen.toList.getD i 0 = 0x00) ∧
    ∀ j < n.toNat, valueAt (generatorOf r) j = 0x00

/-- R156: RS_DIV completes when a generator is held, its ranges are legal and its data written: the data followed by
the n ECC bytes is a multiple of the generator, and no other byte or register changes. -/
def Obligations.RsDivLeavesTheRemainder : Prop :=
  ∀ (s : State) (o : Latch) (data : List Byte), s.mem.wf → GeneratorInv s.res → s.latch = some o →
    s.res.genDeg ≠ 0 → o.a0.toNat + o.a1.toNat ≤ 4096 → o.a2.toNat + s.res.genDeg.toNat ≤ 4096 →
    o.a1.toNat + s.res.genDeg.toNat ≤ 255 → data.length = o.a1.toNat → Holds s.mem (0x1000 + o.a0.toNat) data →
    ∃ m ecc q, exec .rsDiv s = .next
        { s with mem := m, errCode := 0x00, errOp := 0x11, done := true, latch := none } ∧
      ecc.length = s.res.genDeg.toNat ∧ Holds m (0x2000 + o.a2.toNat) ecc ∧ q.length = data.length ∧
      data ++ ecc = polyProduct q (generatorOf s.res) ∧
      SameOutside s.mem m fun a => Within a (0x2000 + o.a2.toNat) s.res.genDeg.toNat

/-- R157, R41: RS_SYND n completes with S_j = C(α^j) for j < n, 0 above, and SYNZ; nothing else changes. -/
def Obligations.RsSyndComputesTheValues : Prop :=
  ∀ (s : State) (o : Latch) (n : Byte) (data ecc : List Byte), s.mem.wf → s.latch = some o →
    1 ≤ n.toNat → n.toNat ≤ 30 → o.a0.toNat + o.a1.toNat ≤ 4096 → o.a2.toNat + n.toNat ≤ 4096 →
    o.a1.toNat + n.toNat ≤ 255 → data.length = o.a1.toNat → Holds s.mem (0x1000 + o.a0.toNat) data →
    ecc.length = n.toNat → Holds s.mem (0x2000 + o.a2.toNat) ecc →
    ∃ sy : Vector Byte 30,
      exec (.rsSynd n) s = .next { s with
        res := { s.res with synd := sy, synz := decide (∀ j < n.toNat, valueAt (data ++ ecc) j = 0x00) },
        errCode := 0x00, errOp := 0x12, done := true, latch := none } ∧
      ∀ j : Fin 30, sy[j] = if j.val < n.toNat then valueAt (data ++ ecc) j else 0x00

/-- R157: what RS_DIV appends after RS_GEN n has zero syndromes. -/
def Obligations.CodewordsHaveZeroSyndromes : Prop :=
  ∀ (s : State) (n : Byte), s.mem.wf → s.latch = none → 1 ≤ n.toNat → n.toNat ≤ 30 →
    s.arg0.toNat + s.arg1.toNat ≤ 4096 → s.arg2.toNat + n.toNat ≤ 4096 → s.arg1.toNat + n.toNat ≤ 255 →
    Written s.mem (0x1000 + s.arg0.toNat) s.arg1.toNat →
    ∃ t1 t2 t3, doCommand (.rsGen n) s = .next t1 ∧ doCommand .rsDiv t1 = .next t2 ∧
      doCommand (.rsSynd n) t2 = .next t3 ∧ t3.errCode = 0x00 ∧ t3.res.synz = true ∧
      ∀ j : Fin 30, t3.res.synd[j] = 0x00

/-- R158: RS_ENCODE_ALL completes: each block's ECC bytes are the remainder of its data codewords, GEN and GEN_DEG
hold the generator, ECC_DONE is set and ILV_DONE cleared, and nothing else changes. -/
def Obligations.RsEncodeAllDividesEveryBlock : Prop :=
  ∀ (s : State) (o : Latch) (data : List Byte), s.mem.wf → s.latch = some o → legalVersion o.v = true →
    data.length = dataCw o.v o.e → Holds s.mem 0x1000 data →
    ∃ m, exec .rsEncodeAll s = .next { s with
        mem := m,
        res := { s.res.setGen (eccPerBlk o.v o.e) with eccDone := true, ilvDone := false },
        errCode := 0x00, errOp := 0x13, done := true, latch := none } ∧
      (∀ b < numBlocks o.v o.e, Holds m (0x2000 + b * eccPerBlk o.v o.e)
        (rsRemainder (generatorOf (s.res.setGen (eccPerBlk o.v o.e))).tail
          ((data.drop (blockStart o.v o.e b)).take (blockLen o.v o.e b)))) ∧
      SameOutside s.mem m fun a => Within a 0x2000 (numBlocks o.v o.e * eccPerBlk o.v o.e)

/-! ### The interleaver (42_interleave.md) -/

/-- R181, R180: INTERLEAVE completes and stores every codeword at its closed-form position, and the positions are a
bijection onto CW[0 .. TOTAL_CW − 1]. -/
def Obligations.InterleaveFollowsTheClosedForm : Prop :=
  ∀ (s : State) (o : Latch), s.mem.wf → s.latch = some o → legalVersion o.v = true →
    Written s.mem 0x1000 (dataCw o.v o.e) → Written s.mem 0x2000 (numBlocks o.v o.e * eccPerBlk o.v o.e) →
    ∃ m, exec .interleave s = .next { s with
        mem := m,
        res := { s.res with cwLen := BitVec.ofNat 12 (totalCw o.v), ilvDone := true },
        errCode := 0x00, errOp := 0x18, done := true, latch := none } ∧
      (∀ b < numBlocks o.v o.e, ∀ i < blockLen o.v o.e b, dataPosition o.v o.e b i < dataCw o.v o.e ∧
        m.read (0x3000 + dataPosition o.v o.e b i) = s.mem.read (0x1000 + blockStart o.v o.e b + i)) ∧
      (∀ b < numBlocks o.v o.e, ∀ i < eccPerBlk o.v o.e, eccPosition o.v o.e b i < totalCw o.v ∧
        m.read (0x3000 + eccPosition o.v o.e b i) = s.mem.read (0x2000 + b * eccPerBlk o.v o.e + i)) ∧
      (∀ k < dataCw o.v o.e, ∃ b < numBlocks o.v o.e, ∃ i < blockLen o.v o.e b, dataPosition o.v o.e b i = k ∧
        ∀ b' < numBlocks o.v o.e, ∀ i' < blockLen o.v o.e b', dataPosition o.v o.e b' i' = k → b' = b ∧ i' = i) ∧
      (∀ k, dataCw o.v o.e ≤ k → k < totalCw o.v →
        ∃ b < numBlocks o.v o.e, ∃ i < eccPerBlk o.v o.e, eccPosition o.v o.e b i = k ∧
        ∀ b' < numBlocks o.v o.e, ∀ i' < eccPerBlk o.v o.e, eccPosition o.v o.e b' i' = k → b' = b ∧ i' = i) ∧
      SameOutside s.mem m fun a => Within a 0x3000 (totalCw o.v)

/-! ### The matrix builder (43_matrix.md) -/

/-- R190 to R195: MX_FUNC completes for every legal version, with its flags, and draws the function patterns. -/
def Obligations.MxFuncDrawsThePatterns : Prop :=
  ∀ (s : State) (o : Latch) (n : Nat), s.latch = some o → legalVersion o.v = true → n = 4 * o.v + 17 →
    ∃ m, exec .mxFunc s = .next { s with
        mem := m,
        res := { s.res with mxVersion := o.version, chosenValid := false, funcDone := true, placed := false,
                            searched := false, masked := false, fmtDone := false, verDone := false },
        errCode := 0x00, errOp := 0x20, done := true, latch := none } ∧
      SameOutside s.mem m (fun a => Within a 0x8000 31329) ∧
      (∀ corner ∈ [(0, 0), (0, n - 7), (n - 7, 0)], ∀ dr < 7, ∀ dc < 7,
        moduleAt m (corner.1 + dr) (corner.2 + dc) =
          some (if max ((dr : Int) - 3).natAbs ((dc : Int) - 3).natAbs ≠ 2 then 0x0B else 0x0A)) ∧
      (∀ x < 8, moduleAt m 7 x = some 0x0A ∧ moduleAt m 7 (n - 8 + x) = some 0x0A ∧
        moduleAt m (n - 8) x = some 0x0A) ∧
      (∀ x < 7, moduleAt m x 7 = some 0x0A ∧ moduleAt m x (n - 8) = some 0x0A ∧
        moduleAt m (n - 7 + x) 7 = some 0x0A) ∧
      (∀ x, 8 ≤ x → x ≤ n - 9 → moduleAt m 6 x = some (if x % 2 = 0 then 0x0B else 0x0A) ∧
        moduleAt m x 6 = some (if x % 2 = 0 then 0x0B else 0x0A)) ∧
      (∀ coords, coords = alignCoords o.v → ∀ i < coords.length, ∀ j < coords.length,
        ¬ (i = 0 ∧ j = 0) → ¬ (i = 0 ∧ j = coords.length - 1) → ¬ (i = coords.length - 1 ∧ j = 0) →
        ∀ dr < 5, ∀ dc < 5, moduleAt m (coords.getD i 0 + dr - 2) (coords.getD j 0 + dc - 2) =
          some (if max ((dr : Int) - 2).natAbs ((dc : Int) - 2).natAbs ≠ 1 then 0x0B else 0x0A)) ∧
      moduleAt m (n - 8) 8 = some 0x0B

/-- R196, R197, R56, R57, R190: MX_FUNC reserves the format area, and from version 7 on the version areas, leaves
every module one of five bytes, and clears the matrix RAM outside the symbol. -/
def Obligations.MxFuncReservesTheInformationAreas : Prop :=
  ∀ (s : State) (o : Latch) (n : Nat) (t : State), s.latch = some o → legalVersion o.v = true → n = 4 * o.v + 17 →
    exec .mxFunc s = .next t →
    (∀ i ≤ 5, moduleAt t.mem i 8 = some 0x04) ∧ moduleAt t.mem 7 8 = some 0x04 ∧ moduleAt t.mem 8 8 = some 0x04 ∧
    moduleAt t.mem 8 7 = some 0x04 ∧ (∀ i, 9 ≤ i → i ≤ 14 → moduleAt t.mem 8 (14 - i) = some 0x04) ∧
    (∀ i ≤ 7, moduleAt t.mem 8 (n - 1 - i) = some 0x04) ∧
    (∀ i, 8 ≤ i → i ≤ 14 → moduleAt t.mem (n - 15 + i) 8 = some 0x04) ∧
    (∀ i < 18, moduleAt t.mem (i / 3) (n - 11 + i % 3) = some (if 7 ≤ o.v then 0x06 else 0x00) ∧
      moduleAt t.mem (n - 11 + i % 3) (i / 3) = some (if 7 ≤ o.v then 0x06 else 0x00)) ∧
    (∀ r < n, ∀ c < n, ∃ b ∈ [0x00, 0x04, 0x06, 0x0A, 0x0B], moduleAt t.mem r c = some b) ∧
    ∀ r < 177, ∀ c < 177, n ≤ r ∨ n ≤ c → moduleAt t.mem r c = some 0x00

/-- R198: the count law, for every version. -/
def Obligations.MxFuncLeavesRawFreeModules : Prop :=
  ∀ (s : State) (o : Latch) (t : State), s.latch = some o → legalVersion o.v = true → exec .mxFunc s = .next t →
    (((List.range (side o.v)).map fun r => (List.range (side o.v)).countP fun c =>
      (moduleAt t.mem r c).any fun b => b &&& 0x0E == 0).sum : Int) = rawFormula o.v ∧
    rawFormula o.v = 8 * totalCw o.v + remBits o.v

/-- R201: the zigzag visits each free data module outside column 6 once, pair by pair from the right, the pairs going
up and down in turn. -/
def Obligations.ZigzagOrder : Prop :=
  ∀ (v : Nat) (g : Grid), legalVersion v = true →
    (zigzag (side v) g).Pairwise (VisitedBefore (side v)) ∧
    ∀ r c, (r, c) ∈ zigzag (side v) g ↔ r < side v ∧ c < side v ∧ c ≠ 6 ∧ gridAt g r c &&& 0x0E = 0

/-- R202, R203, R200: MX_PLACE completes on a drawn, unplaced symbol whose free modules number 8·TOTAL_CW + REM_BITS:
the k-th module of the zigzag gets its bit, and nothing else changes. -/
def Obligations.MxPlaceStoresTheBits : Prop :=
  ∀ (s : State) (o : Latch) (g : Grid) (cw : List Byte), s.mem.wf → s.latch = some o → legalVersion o.v = true →
    s.res.funcDone = true → s.res.mxVersion = o.version → s.res.placed = false →
    readSymbol s.mem (side o.v) = some g → (zigzag (side o.v) g).length = 8 * totalCw o.v + remBits o.v →
    cw.length = totalCw o.v → Holds s.mem 0x3000 cw →
    ∃ m, exec .mxPlace s = .next { s with
        mem := m, res := { s.res with placed := true },
        errCode := 0x00, errOp := 0x21, done := true, latch := none } ∧
      (∀ k r c, (zigzag (side o.v) g)[k]? = some (r, c) → moduleAt m r c =
        some (if k < 8 * totalCw o.v ∧ (cw.getD (k / 8) 0).getLsbD (7 - k % 8) = true then 0x09 else 0x08)) ∧
      SameOutside s.mem m fun a => ∃ p ∈ zigzag (side o.v) g, a = 0x8000 + 177 * p.1 + p.2

/-! ### The mask trial engine (44_mask.md) -/

/-- R222: the colours of CAND_k under both values of SCORE_RESERVED. -/
def Obligations.CandidateColours : Prop :=
  ∀ (p : Params) (v : Nat) (e : EccLevel) (k : Nat) (g : Grid), legalVersion v = true → k < 8 →
    g.length = side v → (∀ row ∈ g, row.length = side v) →
    Square (side v) (candidate p v e k g) ∧
    ∀ r < side v, ∀ c < side v,
      (p.scoreReserved = .masked →
        colourAt (candidate p v e k g) r c = (maskedModule k r c (gridAt g r c)).getLsbD 0) ∧
      (p.scoreReserved = .formatDrawn →
        (∀ i < 15, (r, c) = fmtPosA i ∨ (r, c) = fmtPosB (side v) i →
          colourAt (candidate p v e k g) r c = (formatWord e k).getLsbD i) ∧
        (7 ≤ v → ∀ i < 18, (r, c) = verPosA (side v) i ∨ (r, c) = verPosB (side v) i →
          colourAt (candidate p v e k g) r c = (versionWord p v).getLsbD i) ∧
        ((∀ i < 15, (r, c) ≠ fmtPosA i ∧ (r, c) ≠ fmtPosB (side v) i) →
          (7 ≤ v → ∀ i < 18, (r, c) ≠ verPosA (side v) i ∧ (r, c) ≠ verPosB (side v) i) →
          colourAt (candidate p v e k g) r c = (maskedModule k r c (gridAt g r c)).getLsbD 0))

/-- R223, R224: N1 counts the maximal runs of every line, N2 the uniform 2 × 2 blocks. -/
def Obligations.RunAndBlockPenalties : Prop :=
  (∀ (n : Nat) (x : Colors), 1 ≤ n → Square n x → n1 n x = runScore n x ∧ n2 x = blockScore n x) ∧
  n1Line (List.replicate 5 false) = 3 ∧ n1Line (List.replicate 4 false) = 0 ∧ n1Line (List.replicate 7 true) = 5 ∧
  n1Line (List.replicate 5 false ++ List.replicate 5 true ++ List.replicate 5 false) = 9 ∧
  n2 (List.replicate 3 (List.replicate 3 true)) = 12

/-- R225, R226: N3 counts the margins of every core, N4 the 5 % steps, under every parameter; and the rules' vectors. -/
def Obligations.CoreAndBalancePenalties : Prop :=
  (∀ (p : Params) (n : Nat) (x : Colors), 7 ≤ n → Square n x →
    n3 p n x = coreScore p n x ∧ n4 p n x = balanceScore p n x) ∧
  (∀ mode weight, (mode = .window11 ∧ weight = 80) ∨ (mode = .coreEitherSide ∧ weight = 40) →
    ∀ p, p = { Params.default with rule3Mode := mode } →
    40 * n3Line p ([1, 0, 1, 1, 1, 0, 1, 0, 0, 0, 0].map (· == 1)) = weight ∧
    40 * n3Line p ([0, 0, 0, 0, 1, 0, 1, 1, 1, 0, 1, 0, 0, 0].map (· == 1)) = weight ∧
    40 * n3Line p ([1, 0, 1, 1, 1, 0, 1, 0, 0, 0, 0, 1, 0, 1, 1, 1, 0, 1, 0, 0, 0, 0].map (· == 1)) = 2 * weight) ∧
  ∀ x, x = List.replicate 10 (List.replicate 25 true) ++ List.replicate 15 (List.replicate 25 false) →
    n4 { Params.default with rule4Rounding := .floor } 25 x = 20 ∧
    n4 { Params.default with rule4Rounding := .ceilMinusOne } 25 x = 10

/-- R229: the penalties' bounds, so that the PEN registers never wrap. -/
def Obligations.PenaltiesNeverWrap : Prop :=
  ∀ (p : Params) (v : Nat) (x : Colors), legalVersion v = true → Square (side v) x →
    n1 (side v) x ≤ 2 * side v * (side v - 2) ∧ n2 x ≤ 3 * (side v - 1) ^ 2 ∧
    n3 p (side v) x ≤ 40 * (2 * side v) * (2 * (side v - 6)) ∧ n4 p (side v) x ≤ 100 ∧
    n1 (side v) x + n2 x + n3 p (side v) x + n4 p (side v) x < 2 ^ 32

/-- R230, R227, R43: MASK_EVAL k completes on a drawn symbol, with the four penalties of CAND_k and their sum. -/
def Obligations.MaskEvalScoresOneMask : Prop :=
  ∀ (s : State) (o : Latch) (k : Byte) (g : Grid) (x : Colors), s.latch = some o → legalVersion o.v = true →
    k.toNat ≤ 7 → s.res.funcDone = true → s.res.mxVersion = o.version → readSymbol s.mem (side o.v) = some g →
    x = candidate s.params o.v o.e k.toNat g →
    exec (.maskEval k) s = .next { s with
      res := { s.res with
        penRule := s.res.penRule.setIfInBounds k.toNat #v[BitVec.ofNat 32 (n1 (side o.v) x), BitVec.ofNat 32 (n2 x),
          BitVec.ofNat 32 (n3 s.params (side o.v) x), BitVec.ofNat 32 (n4 s.params (side o.v) x)],
        penTotal := s.res.penTotal.setIfInBounds k.toNat (BitVec.ofNat 32
          (n1 (side o.v) x + n2 x + n3 s.params (side o.v) x + n4 s.params (side o.v) x)) },
      errCode := 0x00, errOp := 0x28, done := true, latch := none }

/-- R228, R231, R234: MASK_SEARCH completes on a drawn symbol: every mask scored as MASK_EVAL scores it, the chosen
mask the smallest with the least total, SEARCHED and VALID set, and nothing else changed. -/
def Obligations.MaskSearchChoosesTheFirstMinimum : Prop :=
  ∀ (s : State) (o : Latch) (g : Grid), s.latch = some o → legalVersion o.v = true →
    s.res.funcDone = true → s.res.mxVersion = o.version → readSymbol s.mem (side o.v) = some g →
    ∃ r : Results, exec .maskSearch s = .next
        { s with res := r, errCode := 0x00, errOp := 0x29, done := true, latch := none } ∧
      r = { s.res with penRule := r.penRule, penTotal := r.penTotal, chosenMask := r.chosenMask,
                       chosenValid := true, searched := true } ∧
      (∀ (k : Fin 8) (u : State), exec (.maskEval (BitVec.ofNat 8 k)) s = .next u →
        r.penRule[k] = u.res.penRule[k] ∧ r.penTotal[k] = u.res.penTotal[k]) ∧
      ∀ best k : Fin 8, best.val = r.chosenMask.toNat →
        r.penTotal[best] ≤ r.penTotal[k] ∧ (k < best → r.penTotal[best] < r.penTotal[k])

/-- R220, R233: MASK_APPLY k completes on a drawn symbol and inverts the colour of exactly the maskable modules where
the predicate of mask k holds. -/
def Obligations.MaskApplyInvertsMaskableModules : Prop :=
  ∀ (s : State) (o : Latch) (k : Byte), MemoryInv s.mem → s.latch = some o → legalVersion o.v = true →
    k.toNat ≤ 7 → s.res.funcDone = true → s.res.mxVersion = o.version → SymbolWritten s.mem (side o.v) →
    ∃ m, exec (.maskApply k) s = .next { s with
        mem := m, res := { s.res with masked := true },
        errCode := 0x00, errOp := 0x2A, done := true, latch := none } ∧
      (∀ r < side o.v, ∀ c < side o.v,
        moduleAt m r c = (moduleAt s.mem r c).map (maskedModule k.toNat r c)) ∧
      SameOutside s.mem m fun a => InSymbol a (side o.v)

/-- R234 (a), (d): applying one mask twice restores the matrix RAM, and Function modules keep their bytes. -/
def Obligations.MaskApplyTwiceRestores : Prop :=
  ∀ (s : State) (k : Byte), MemoryInv s.mem → s.latch = none → legalVersion s.version.toNat = true → k.toNat ≤ 7 →
    s.res.funcDone = true → s.res.mxVersion = s.version → SymbolWritten s.mem (side s.version.toNat) →
    ∃ t u, doCommand (.maskApply k) s = .next t ∧ doCommand (.maskApply k) t = .next u ∧ u.mem = s.mem ∧
      u.res.masked = true ∧
      ∀ r < side s.version.toNat, ∀ c < side s.version.toNat, ∀ b, moduleAt s.mem r c = some b →
        b &&& 0x06 = 0x02 → moduleAt t.mem r c = some b

/-! ### Format and version information (45_format_version.md) -/

/-- R252, R256 with the tables of R251 and R253: BCH_FMT and BCH_VER complete with the words of the tables, and the
words are codewords that differ as R257 says. -/
def Obligations.BchCommandsFollowTheTables : Prop :=
  (∀ (s : State) (k e : Byte), k.toNat ≤ 7 → e.toNat ≤ 3 → exec (.bchFmt k e) s = .next
    { s with res := { s.res with fmtWord := BitVec.ofNat 15 ((formatTable.getD e.toNat []).getD k.toNat 0) },
             errCode := 0x00, errOp := 0x30, done := true, latch := none }) ∧
  (∀ (s : State) (v : Byte), 7 ≤ v.toNat → v.toNat ≤ 40 → exec (.bchVer v) s = .next
    { s with res := { s.res with
               verWord := BitVec.ofNat 18 (versionTable.getD (v.toNat - 7) 0) ^^^ s.params.versionInfoXor },
             errCode := 0x00, errOp := 0x31, done := true, latch := none }) ∧
  (∀ e < 4, ∀ k < 8,
    (∃ q < 32, binaryProduct 5 0x537 q = (formatTable.getD e []).getD k 0 ^^^ 0x5412) ∧
    ((formatTable.getD e []).getD k 0 ^^^ 0x5412) / 1024 = [1, 0, 3, 2].getD e 0 * 8 + k) ∧
  (∀ v, 7 ≤ v → v ≤ 40 → (∃ q < 64, binaryProduct 6 0x1F25 q = versionTable.getD (v - 7) 0) ∧
    versionTable.getD (v - 7) 0 / 4096 = v) ∧
  ∀ w ∈ formatTable.flatten, ∀ w' ∈ formatTable.flatten, w ≠ w' →
    7 ≤ (List.range 15).countP fun i => (w ^^^ w').testBit i

/-- R254, R255, R257 (d): FMT_WRITE and VER_WRITE complete on a drawn symbol, store both copies of their word, assigned,
and change nothing else; VER_WRITE stores no module below version 7. -/
def Obligations.InformationWritesStoreBothCopies : Prop :=
  ∀ (s : State) (o : Latch) (n : Nat), s.latch = some o → legalVersion o.v = true → s.res.funcDone = true →
    s.res.mxVersion = o.version → n = side o.v →
    (∀ k : Byte, k.toNat ≤ 7 → ∃ m, exec (.fmtWrite k) s = .next { s with
        mem := m,
        res := { s.res with fmtWord := formatWord o.e k.toNat, fmtDone := true },
        errCode := 0x00, errOp := 0x32, done := true, latch := none } ∧
      (∀ i < 15, ∀ p, p = fmtPosA i ∨ p = fmtPosB n i →
        moduleAt m p.1 p.2 = some (if (formatWord o.e k.toNat).getLsbD i then 0x0D else 0x0C)) ∧
      SameOutside s.mem m fun a => ∃ i < 15, ∃ p, (p = fmtPosA i ∨ p = fmtPosB n i) ∧
        a = 0x8000 + 177 * p.1 + p.2) ∧
    (7 ≤ o.v → ∃ m, exec .verWrite s = .next { s with
        mem := m,
        res := { s.res with verWord := versionWord s.params o.v, verDone := true },
        errCode := 0x00, errOp := 0x33, done := true, latch := none } ∧
      (∀ i < 18, ∀ p, p = verPosA n i ∨ p = verPosB n i →
        moduleAt m p.1 p.2 = some (if (versionWord s.params o.v).getLsbD i then 0x0F else 0x0E)) ∧
      SameOutside s.mem m fun a => ∃ i < 18, ∃ p, (p = verPosA n i ∨ p = verPosB n i) ∧
        a = 0x8000 + 177 * p.1 + p.2) ∧
    (o.v ≤ 6 → exec .verWrite s = .next { s with
        res := { s.res with verWord := 0, verDone := true },
        errCode := 0x00, errOp := 0x33, done := true, latch := none })

/-! ### The whole pipeline (46_pipeline.md) -/

/-- R270, R57: ENCODE completes for every legal version and level once its data codewords are written, with every
flag and register the rule names, and every module of the symbol assigned. -/
def Obligations.EncodeCompletes : Prop :=
  ∀ (s : State) (o : Latch), s.mem.wf → s.latch = some o → legalVersion o.v = true →
    Written s.mem 0x1000 (dataCw o.v o.e) →
    ∃ m r, exec .encode s = .next
        { s with
        mem := m, res := r, errCode := 0x00, errOp := 0x3F, done := true, latch := none } ∧
      r.eccDone = true ∧ r.ilvDone = true ∧ r.funcDone = true ∧ r.placed = true ∧ r.searched = true ∧
      r.masked = true ∧ r.fmtDone = true ∧ r.verDone = true ∧ r.synz = s.res.synz ∧ r.synd = s.res.synd ∧
      r.gfRes = s.res.gfRes ∧ r.genDeg = BitVec.ofNat 6 (eccPerBlk o.v o.e) ∧
      r.cwLen = BitVec.ofNat 12 (totalCw o.v) ∧ r.mxVersion = o.version ∧ r.chosenValid = true ∧
      r.fmtWord = formatWord o.e r.chosenMask.toNat ∧
      r.verWord = (if 7 ≤ o.v then versionWord s.params o.v else 0) ∧
      (∀ i < side o.v, ∀ j < side o.v, ∃ b, moduleAt m i j = some b ∧ b.getLsbD 3 = true) ∧
      SameOutside s.mem m (StoreSet .encode o s)

/-- R271: DO ENCODE leaves what the eight commands leave, but for ERRCODE.OP and CMD. -/
def Obligations.EncodeEqualsTheCommandSequence : Prop :=
  ∀ s : State, s.mem.wf → s.latch = none → legalVersion s.version.toNat = true →
    Written s.mem 0x1000 (dataCw s.version.toNat (eccLevel s.ecl)) →
    ∃ t s1 s2 s3 s4 s5 s6 s7 s8 k, doCommand .encode s = .next t ∧
      doCommand .rsEncodeAll s = .next s1 ∧ doCommand .interleave s1 = .next s2 ∧ doCommand .mxFunc s2 = .next s3 ∧
      doCommand .mxPlace s3 = .next s4 ∧ doCommand .maskSearch s4 = .next s5 ∧ k = s5.res.chosenMask.setWidth 8 ∧
      doCommand (.maskApply k) s5 = .next s6 ∧ doCommand (.fmtWrite k) s6 = .next s7 ∧
      doCommand .verWrite s7 = .next s8 ∧ t = { s8 with errOp := 0x3F, cmd := 0x0000003F }

/-- R270, R314: what ENCODE leaves depends on V, E, the data codewords and the parameters alone. -/
def Obligations.EncodeDependsOnItsInputsAlone : Prop :=
  ∀ (s s' : State) (o o' : Latch), s.mem.wf → s'.mem.wf → s.latch = some o → s'.latch = some o' →
    o.version = o'.version → o.ecl = o'.ecl → s.params = s'.params → legalVersion o.v = true →
    Written s.mem 0x1000 (dataCw o.v o.e) →
    (∀ i < dataCw o.v o.e, s'.mem.read (0x1000 + i) = s.mem.read (0x1000 + i)) →
    ∃ t t', exec .encode s = .next t ∧ exec .encode s' = .next t' ∧
      (∀ a, StoreSet .encode o s a → t'.mem.read a = t.mem.read a) ∧
      t'.res = { t.res with gfRes := s'.res.gfRes, synd := s'.res.synd, synz := s'.res.synz }
end

