-- ==== Sys2Proof/Laws/Memory.lean ====
section
/-! SUPPORT. What the memory operations do: what each makes every offset read as, and that each keeps the canonical
form. Callers cite these and never unfold an operation. -/

namespace Sys2Proof.Machine

open Sys2Proof

namespace Memory

/-! ### Reading one byte -/

@[simp] theorem read_nil (a : Nat) : Memory.read [] a = none := rfl

@[simp] theorem read_cons (c : Host.Cell) (m : Memory) (a : Nat) :
    Memory.read (c :: m) a = if c.1 = a then some c.2 else Memory.read m a := rfl

/-- A byte that reads as something is listed. -/
theorem mem_of_read {m : Memory} {a : Nat} {b : Byte} (h : m.read a = some b) : (a, b) ∈ m := by
  induction m with
  | nil => simp at h
  | cons c m ih =>
    rw [read_cons] at h
    split at h
    · next hc => obtain rfl := Option.some.inj h; subst hc; exact List.mem_cons_self
    · exact List.mem_cons_of_mem _ (ih h)

/-- A listed byte of a canonical memory is what its offset reads as. -/
theorem read_of_mem {m : Memory} (hw : m.wf) {c : Host.Cell} (h : c ∈ m) : m.read c.1 = some c.2 := by
  induction m with
  | nil => simp at h
  | cons d m ih =>
    obtain ⟨hd, hm⟩ := List.pairwise_cons.1 hw
    rcases List.mem_cons.1 h with rfl | h
    · simp
    · have : d.1 ≠ c.1 := by have := hd c h; omega
      simp [this, ih hm h]

/-- An offset that is not listed reads as nothing. -/
theorem read_eq_none {m : Memory} {a : Nat} (h : ∀ c ∈ m, c.1 ≠ a) : m.read a = none := by
  cases hr : m.read a with
  | none => rfl
  | some b => exact absurd rfl (h _ (mem_of_read hr))

theorem read_append (m m' : Memory) (a : Nat) : Memory.read (m ++ m') a = (m.read a).or (m'.read a) := by
  induction m with
  | nil => simp
  | cons c m ih =>
    rw [List.cons_append, read_cons, read_cons, ih]
    split <;> simp

/-- Keeping the offsets that satisfy a predicate. -/
theorem read_filter (m : Memory) (p : Nat → Bool) (a : Nat) :
    Memory.read (m.filter fun c => p c.1) a = if p a then m.read a else none := by
  induction m with
  | nil => simp
  | cons c m ih =>
    by_cases hp : p c.1 = true
    · rw [List.filter_cons_of_pos (by simpa using hp), read_cons, read_cons, ih]
      by_cases hc : c.1 = a
      · subst hc; simp [hp]
      · simp [hc]
    · rw [List.filter_cons_of_neg (by simpa using hp), ih, read_cons]
      by_cases hc : c.1 = a
      · subst hc; simp [hp]
      · simp [hc]

/-! ### Single writes -/

/-- A read after a write to the same offset gives the byte written, and every other offset reads as before. -/
theorem read_write (m : Memory) (a : Nat) (v : Byte) (x : Nat) :
    (m.write a v).read x = if x = a then some v else m.read x := by
  induction m with
  | nil => simp [Memory.write, eq_comm]
  | cons c m ih =>
    obtain ⟨y, b⟩ := c
    unfold Memory.write
    split
    · by_cases h : x = a
      · simp [h]
      · simp [h, Ne.symm h]
    · split
      · next h =>
        subst h
        by_cases h : x = a
        · simp [h]
        · simp [h, Ne.symm h]
      · rw [read_cons, ih, read_cons]
        by_cases h : x = a
        · subst h; next h1 h2 => simp [Ne.symm h2]
        · simp [h]

theorem mem_write {m : Memory} {a : Nat} {v : Byte} {c : Host.Cell} (h : c ∈ m.write a v) : c = (a, v) ∨ c ∈ m := by
  induction m with
  | nil => simpa [Memory.write] using h
  | cons d m ih =>
    unfold Memory.write at h
    split at h
    · simpa using h
    · split at h
      · rcases List.mem_cons.1 h with h | h
        · exact .inl h
        · exact .inr (List.mem_cons_of_mem _ h)
      · rcases List.mem_cons.1 h with h | h
        · exact .inr (h ▸ List.mem_cons_self)
        · exact (ih h).imp_right (List.mem_cons_of_mem _)

theorem write_wf {m : Memory} (hw : m.wf) (a : Nat) (v : Byte) : (m.write a v).wf := by
  induction m with
  | nil => simp [Memory.write]
  | cons c m ih =>
    obtain ⟨hc, hm⟩ := List.pairwise_cons.1 hw
    unfold Memory.write
    split
    · next h =>
      refine List.pairwise_cons.2 ⟨fun d hd => ?_, hw⟩
      rcases List.mem_cons.1 hd with rfl | hd
      · exact h
      · exact h.trans (hc d hd)
    · split
      · next h => subst h; exact List.pairwise_cons.2 ⟨hc, hm⟩
      · next h1 h2 =>
        refine List.pairwise_cons.2 ⟨fun d hd => ?_, ih hm⟩
        rcases mem_write hd with rfl | hd
        · simp only; omega
        · exact hc d hd

/-! ### Runs of bytes -/

@[simp] theorem run_nil (a : Nat) : Memory.run a [] = [] := rfl

@[simp] theorem run_cons (a : Nat) (b : Byte) (bs : List Byte) :
    Memory.run a (b :: bs) = (a, b) :: Memory.run (a + 1) bs := rfl

theorem read_run (a : Nat) (bs : List Byte) (x : Nat) :
    Memory.read (Memory.run a bs) x = if a ≤ x then bs[x - a]? else none := by
  induction bs generalizing a with
  | nil => simp
  | cons b bs ih =>
    rw [run_cons, read_cons, ih]
    by_cases h : a = x
    · subst h; simp
    · by_cases h' : a ≤ x
      · have e : x - a = (x - (a + 1)) + 1 := by omega
        have h1 : a + 1 ≤ x := by omega
        simp only [h, h', h1, if_true, if_false]
        rw [e, List.getElem?_cons_succ]
      · have h1 : ¬ a + 1 ≤ x := by omega
        simp [h, h', h1]

theorem mem_run {a : Nat} {bs : List Byte} {c : Host.Cell} (h : c ∈ Memory.run a bs) :
    a ≤ c.1 ∧ c.1 < a + bs.length ∧ c.2 ∈ bs := by
  induction bs generalizing a with
  | nil => simp at h
  | cons b bs ih =>
    rcases List.mem_cons.1 h with rfl | h
    · simp
    · obtain ⟨h1, h2, h3⟩ := ih h
      refine ⟨by omega, by simp only [List.length_cons]; omega, List.mem_cons_of_mem _ h3⟩

theorem run_wf (a : Nat) (bs : List Byte) : (Memory.run a bs).wf := by
  induction bs generalizing a with
  | nil => simp
  | cons b bs ih =>
    refine List.pairwise_cons.2 ⟨fun c hc => ?_, ih (a + 1)⟩
    have := (mem_run hc).1
    simp only; omega

/-- After a range write, the range reads as the bytes written and every other offset as before. -/
theorem read_writeRange (m : Memory) (a : Nat) (bs : List Byte) (x : Nat) :
    (m.writeRange a bs).read x = if a ≤ x ∧ x < a + bs.length then bs[x - a]? else m.read x := by
  unfold Memory.writeRange
  rw [read_append, read_append, read_run,
    read_filter m (fun y => decide (y < a)), read_filter m (fun y => decide (a + bs.length ≤ y))]
  by_cases h1 : a ≤ x
  · by_cases h2 : x < a + bs.length
    · have h3 : ¬ x < a := by omega
      have h4 : ¬ a + bs.length ≤ x := by omega
      simp [h1, h2, h3, h4]
    · have h3 : ¬ x < a := by omega
      have h4 : a + bs.length ≤ x := by omega
      have h5 : bs[x - a]? = none := List.getElem?_eq_none (by omega)
      simp [h1, h2, h3, h4, h5]
  · have h3 : x < a := by omega
    have h4 : ¬ a + bs.length ≤ x := by omega
    simp [h1, h3, h4]

theorem mem_writeRange {m : Memory} {a : Nat} {bs : List Byte} {c : Host.Cell} (h : c ∈ m.writeRange a bs) :
    (c ∈ m ∧ (c.1 < a ∨ a + bs.length ≤ c.1)) ∨ (a ≤ c.1 ∧ c.1 < a + bs.length ∧ c.2 ∈ bs) := by
  unfold Memory.writeRange at h
  simp only [List.mem_append, List.mem_filter, decide_eq_true_eq] at h
  rcases h with (⟨h, h'⟩ | h) | ⟨h, h'⟩
  · exact .inl ⟨h, .inl h'⟩
  · exact .inr (mem_run h)
  · exact .inl ⟨h, .inr h'⟩

theorem writeRange_wf {m : Memory} (hw : m.wf) (a : Nat) (bs : List Byte) : (m.writeRange a bs).wf := by
  unfold Memory.writeRange
  refine List.pairwise_append.2 ⟨List.pairwise_append.2 ⟨List.Pairwise.filter _ hw, run_wf a bs, ?_⟩,
    List.Pairwise.filter _ hw, ?_⟩
  · intro c hc d hd
    have h1 := (List.mem_filter.1 hc).2
    have h2 := (mem_run hd).1
    simp only [decide_eq_true_eq] at h1
    omega
  · intro c hc d hd
    have h2 := (List.mem_filter.1 hd).2
    simp only [decide_eq_true_eq] at h2
    rcases List.mem_append.1 hc with hc | hc
    · have h1 := (List.mem_filter.1 hc).2
      simp only [decide_eq_true_eq] at h1
      omega
    · have h1 := (mem_run hc).2.1
      omega

/-! ### Lists of single writes -/

@[simp] theorem writeEach_nil (m : Memory) : m.writeEach [] = m := rfl

@[simp] theorem writeEach_cons (m : Memory) (w : Host.Cell) (ws : List Host.Cell) :
    m.writeEach (w :: ws) = (m.write w.1 w.2).writeEach ws := rfl

theorem writeEach_wf {m : Memory} (hw : m.wf) (ws : List Host.Cell) : (m.writeEach ws).wf := by
  induction ws generalizing m with
  | nil => exact hw
  | cons w ws ih => exact ih (write_wf hw w.1 w.2)

theorem mem_writeEach {m : Memory} {ws : List Host.Cell} {c : Host.Cell} (h : c ∈ m.writeEach ws) :
    c ∈ ws ∨ c ∈ m := by
  induction ws generalizing m with
  | nil => exact .inr h
  | cons w ws ih =>
    rcases ih h with h | h
    · exact .inl (List.mem_cons_of_mem _ h)
    · rcases mem_write h with h | h
      · exact .inl (h ▸ List.mem_cons_self)
      · exact .inr h

/-- An offset that no write of the list names reads as before. -/
theorem read_writeEach_of_ne {m : Memory} {ws : List Host.Cell} {x : Nat} (h : ∀ w ∈ ws, w.1 ≠ x) :
    (m.writeEach ws).read x = m.read x := by
  induction ws generalizing m with
  | nil => rfl
  | cons w ws ih =>
    rw [writeEach_cons, ih fun w' hw' => h w' (List.mem_cons_of_mem _ hw'), read_write,
      if_neg (Ne.symm (h w List.mem_cons_self))]

/-- If every write to an offset writes the same byte, and there is one, the offset reads as that byte. -/
theorem read_writeEach_of_mem {m : Memory} {ws : List Host.Cell} {w : Host.Cell} (hw : w ∈ ws)
    (h : ∀ w' ∈ ws, w'.1 = w.1 → w'.2 = w.2) : (m.writeEach ws).read w.1 = some w.2 := by
  induction ws generalizing m with
  | nil => simp at hw
  | cons v ws ih =>
    rw [writeEach_cons]
    by_cases hin : ∃ w' ∈ ws, w'.1 = w.1
    · obtain ⟨w', hw', he⟩ := hin
      have e2 : w'.2 = w.2 := h w' (List.mem_cons_of_mem _ hw') he
      exact ih (by rw [← Prod.ext he e2]; exact hw') fun u hu => h u (List.mem_cons_of_mem _ hu)
    · have hne : ∀ w' ∈ ws, w'.1 ≠ w.1 := fun w' hw' he => hin ⟨w', hw', he⟩
      have hv : v = w := by
        rcases List.mem_cons.1 hw with h' | h'
        · exact h'.symm
        · exact absurd rfl (hne w h')
      rw [read_writeEach_of_ne hne, read_write, if_pos (by rw [hv]), hv]

/-! ### Changing listed bytes in place, and erasing -/

theorem read_modify (m : Memory) (f : Nat → Byte → Byte) (a : Nat) : (m.modify f).read a = (m.read a).map (f a) := by
  induction m with
  | nil => rfl
  | cons c m ih =>
    unfold Memory.modify at ih ⊢
    rw [List.map_cons, read_cons, ih, read_cons]
    by_cases h : c.1 = a
    · subst h; simp
    · simp [h]

theorem modify_wf {m : Memory} (hw : m.wf) (f : Nat → Byte → Byte) : (m.modify f).wf := by
  unfold Memory.modify Memory.wf
  exact List.pairwise_map.2 hw

theorem mem_modify {m : Memory} {f : Nat → Byte → Byte} {c : Host.Cell} (h : c ∈ m.modify f) :
    ∃ b, (c.1, b) ∈ m ∧ c.2 = f c.1 b := by
  unfold Memory.modify at h
  obtain ⟨d, hd, rfl⟩ := List.mem_map.1 h
  exact ⟨d.2, hd, rfl⟩

theorem read_erase (m : Memory) (spans : List Span) (a : Nat) :
    (m.erase spans).read a = if inSpans spans a then none else m.read a := by
  unfold Memory.erase
  rw [read_filter m (fun y => !inSpans spans y)]
  cases inSpans spans a <;> simp

theorem erase_wf {m : Memory} (hw : m.wf) (spans : List Span) : (m.erase spans).wf := List.Pairwise.filter _ hw

theorem mem_erase {m : Memory} {spans : List Span} {c : Host.Cell} (h : c ∈ m.erase spans) : c ∈ m :=
  (List.mem_filter.1 h).1

@[simp] theorem erase_nil (m : Memory) : m.erase [] = m := by
  unfold Memory.erase
  simp [inSpans]

/-! ### Reading ranges -/

@[simp] theorem consecutive_zero (m : Memory) (a : Nat) : Memory.consecutive m a 0 = some [] := by
  unfold Memory.consecutive; rfl

@[simp] theorem consecutive_nil (a n : Nat) : Memory.consecutive [] a (n + 1) = none := rfl

@[simp] theorem consecutive_cons (c : Host.Cell) (m : Memory) (a n : Nat) :
    Memory.consecutive (c :: m) a (n + 1) =
      if c.1 = a then (Memory.consecutive m (a + 1) n).map (c.2 :: ·) else none := rfl

theorem length_of_consecutive {m : Memory} {a n : Nat} {bs : List Byte} (h : m.consecutive a n = some bs) :
    bs.length = n := by
  induction n generalizing m a bs with
  | zero => simp at h; simp [h]
  | succ n ih =>
    cases m with
    | nil => simp at h
    | cons c m =>
      rw [consecutive_cons] at h
      split at h
      · obtain ⟨bs', h', rfl⟩ := Option.map_eq_some_iff.1 h
        simp [ih h']
      · simp at h

theorem length_of_readRange {m : Memory} {a n : Nat} {bs : List Byte} (h : m.readRange a n = some bs) :
    bs.length = n := length_of_consecutive h

theorem read_of_consecutive {m : Memory} (hw : m.wf) {a n : Nat} {bs : List Byte} (h : m.consecutive a n = some bs)
    {i : Nat} (hi : i < n) : m.read (a + i) = bs[i]? := by
  induction n generalizing m a bs i with
  | zero => omega
  | succ n ih =>
    cases m with
    | nil => simp at h
    | cons c m =>
      obtain ⟨hc, hm⟩ := List.pairwise_cons.1 hw
      rw [consecutive_cons] at h
      split at h
      · next e =>
        obtain ⟨bs', h', rfl⟩ := Option.map_eq_some_iff.1 h
        cases i with
        | zero => simp [e]
        | succ i =>
          rw [read_cons, if_neg (by omega), List.getElem?_cons_succ, ← ih hm h' (by omega)]
          congr 1; omega
      · simp at h

theorem consecutive_of_read {m : Memory} (hw : m.wf) {a n : Nat} (hlo : ∀ c ∈ m, a ≤ c.1) {bs : List Byte}
    (hl : bs.length = n) (h : ∀ i, i < n → m.read (a + i) = bs[i]?) : m.consecutive a n = some bs := by
  induction n generalizing m a bs with
  | zero => simp [List.length_eq_zero_iff.1 hl]
  | succ n ih =>
    obtain ⟨b, bs, rfl⟩ : ∃ b bs', bs = b :: bs' := by
      cases bs with
      | nil => simp at hl
      | cons b bs => exact ⟨b, bs, rfl⟩
    have h0 := h 0 (by omega)
    rw [Nat.add_zero, List.getElem?_cons_zero] at h0
    have hmem := mem_of_read h0
    cases m with
    | nil => simp at hmem
    | cons c m =>
      obtain ⟨hc, hm⟩ := List.pairwise_cons.1 hw
      have e : c.1 = a := by
        rcases List.mem_cons.1 hmem with h' | h'
        · rw [← h']
        · have := hc _ h'
          have := hlo c List.mem_cons_self
          simp only at *; omega
      rw [read_cons, if_pos e] at h0
      obtain rfl := Option.some.inj h0
      rw [consecutive_cons, if_pos e, ih hm (fun d hd => by have := hc d hd; omega) (by simpa using hl)]
      · rfl
      · intro i hi
        have := h (i + 1) (by omega)
        rw [read_cons, if_neg (by omega), List.getElem?_cons_succ] at this
        rw [← this]; congr 1; omega

theorem dropWhile_wf {m : Memory} (hw : m.wf) (a : Nat) : Memory.wf (m.dropWhile fun c => c.1 < a) :=
  List.Pairwise.sublist (List.dropWhile_sublist _) hw

theorem le_of_mem_dropWhile {m : Memory} (hw : m.wf) {a : Nat} {c : Host.Cell}
    (h : c ∈ m.dropWhile fun c => c.1 < a) : a ≤ c.1 := by
  induction m with
  | nil => simp at h
  | cons d m ih =>
    obtain ⟨hd, hm⟩ := List.pairwise_cons.1 hw
    by_cases hlt : d.1 < a
    · rw [List.dropWhile_cons_of_pos (by simpa using hlt)] at h
      exact ih hm h
    · rw [List.dropWhile_cons_of_neg (by simpa using hlt)] at h
      rcases List.mem_cons.1 h with rfl | h
      · omega
      · have := hd c h; omega

theorem read_dropWhile (m : Memory) {a x : Nat} (hx : a ≤ x) :
    Memory.read (m.dropWhile fun c => c.1 < a) x = m.read x := by
  induction m with
  | nil => rfl
  | cons d m ih =>
    by_cases hlt : d.1 < a
    · rw [List.dropWhile_cons_of_pos (by simpa using hlt), ih, read_cons, if_neg (by omega)]
    · rw [List.dropWhile_cons_of_neg (by simpa using hlt)]

/-- What a range read of a canonical memory gives: each byte is what its offset reads as. -/
theorem readRange_eq_some {m : Memory} (hw : m.wf) {a n : Nat} {bs : List Byte} :
    m.readRange a n = some bs ↔ bs.length = n ∧ ∀ i, i < n → m.read (a + i) = bs[i]? := by
  constructor
  · intro h
    refine ⟨length_of_readRange h, fun i hi => ?_⟩
    rw [← read_dropWhile m (a := a) (x := a + i) (by omega)]
    exact read_of_consecutive (dropWhile_wf hw a) h hi
  · rintro ⟨hl, h⟩
    refine consecutive_of_read (dropWhile_wf hw a) (fun c hc => le_of_mem_dropWhile hw hc) hl fun i hi => ?_
    rw [read_dropWhile m (by omega)]
    exact h i hi

/-- A range read of a canonical memory succeeds exactly when every byte was written (R60). -/
theorem readRange_isSome {m : Memory} (hw : m.wf) {a n : Nat} :
    (m.readRange a n).isSome = true ↔ ∀ i, i < n → (m.read (a + i)).isSome = true := by
  constructor
  · intro h i hi
    obtain ⟨bs, hbs⟩ := Option.isSome_iff_exists.1 h
    obtain ⟨hl, hr⟩ := (readRange_eq_some hw).1 hbs
    rw [hr i hi, List.getElem?_eq_getElem (by omega)]
    rfl
  · intro h
    have : m.readRange a n = some ((List.range n).map fun i => (m.read (a + i)).getD 0) := by
      refine (readRange_eq_some hw).2 ⟨by simp, fun i hi => ?_⟩
      obtain ⟨b, hb⟩ := Option.isSome_iff_exists.1 (h i hi)
      simp [hi, hb]
    simp [this]

/-- Two canonical memories that agree on a range read alike there. -/
theorem readRange_congr {m m' : Memory} (hw : m.wf) (hw' : m'.wf) {a n : Nat}
    (h : ∀ i, i < n → m.read (a + i) = m'.read (a + i)) : m.readRange a n = m'.readRange a n := by
  ext bs
  rw [readRange_eq_some hw, readRange_eq_some hw']
  constructor <;> rintro ⟨hl, hr⟩ <;> refine ⟨hl, fun i hi => ?_⟩
  · rw [← h i hi]; exact hr i hi
  · rw [h i hi]; exact hr i hi

/-- A range just written reads as the bytes written. -/
theorem readRange_writeRange_same {m : Memory} (hw : m.wf) (a : Nat) (bs : List Byte) :
    (m.writeRange a bs).readRange a bs.length = some bs := by
  refine (readRange_eq_some (writeRange_wf hw a bs)).2 ⟨rfl, fun i hi => ?_⟩
  rw [read_writeRange, if_pos ⟨by omega, by omega⟩]
  congr 1; omega

/-- A range write leaves a range that it does not touch as it was. -/
theorem readRange_writeRange_other {m : Memory} (hw : m.wf) {a : Nat} {bs : List Byte} {a' n : Nat}
    (h : a' + n ≤ a ∨ a + bs.length ≤ a') : (m.writeRange a bs).readRange a' n = m.readRange a' n := by
  refine readRange_congr (writeRange_wf hw a bs) hw fun i hi => ?_
  rw [read_writeRange, if_neg (by omega)]

end Memory

/-! ### Reading the symbol -/

theorem length_of_readRows {m : Memory} {sd r n : Nat} {g : Grid} (h : readRows m sd r n = some g) :
    g.length = n := by
  induction n generalizing r g with
  | zero => simp [readRows] at h; simp [h]
  | succ n ih =>
    unfold readRows at h
    split at h
    · next row rows h1 h2 => obtain rfl := Option.some.inj h; simp [ih h2]
    · simp at h

theorem readRows_getElem {m : Memory} {sd r n : Nat} {g : Grid} (h : readRows m sd r n = some g) {i : Nat}
    (hi : i < n) : m.readRange (matAddr (r + i) 0) sd = g[i]? := by
  induction n generalizing r g i with
  | zero => omega
  | succ n ih =>
    unfold readRows at h
    split at h
    · next row rows h1 h2 =>
      obtain rfl := Option.some.inj h
      cases i with
      | zero => simpa using h1
      | succ i =>
        rw [List.getElem?_cons_succ, ← ih h2 (by omega)]
        congr 2; omega
    · simp at h

theorem readRows_of_getElem {m : Memory} {sd r n : Nat} {g : Grid} (hl : g.length = n)
    (h : ∀ i, i < n → m.readRange (matAddr (r + i) 0) sd = g[i]?) : readRows m sd r n = some g := by
  induction n generalizing r g with
  | zero => simp [readRows, List.length_eq_zero_iff.1 hl]
  | succ n ih =>
    cases g with
    | nil => simp at hl
    | cons row rows =>
      have h0 := h 0 (by omega)
      rw [Nat.add_zero, List.getElem?_cons_zero] at h0
      have h1 : readRows m sd (r + 1) n = some rows := by
        refine ih (by simpa using hl) fun i hi => ?_
        have := h (i + 1) (by omega)
        rw [List.getElem?_cons_succ] at this
        rw [← this]; congr 2; omega
      simp [readRows, h0, h1]

/-- What reading the symbol of a canonical memory gives: a square grid whose bytes are what the memory reads. -/
theorem readSymbol_eq_some {m : Memory} (hw : m.wf) {sd : Nat} {g : Grid} :
    readSymbol m sd = some g ↔ g.length = sd ∧ (∀ row ∈ g, row.length = sd) ∧
      ∀ r c, r < sd → c < sd → m.read (matAddr r c) = some (gridAt g r c) := by
  unfold readSymbol
  constructor
  · intro h
    have hl := length_of_readRows h
    have hrow : ∀ i, i < sd → ∃ row, g[i]? = some row ∧ m.readRange (matAddr i 0) sd = some row := by
      intro i hi
      have := readRows_getElem h hi
      rw [Nat.zero_add] at this
      have hg : g[i]? = some (g[i]'(by omega)) := List.getElem?_eq_getElem (by omega)
      exact ⟨_, hg, by rw [this, hg]⟩
    refine ⟨hl, fun row hr => ?_, fun r c hr hc => ?_⟩
    · obtain ⟨i, hi, rfl⟩ := List.mem_iff_getElem.1 hr
      obtain ⟨row, h1, h2⟩ := hrow i (by omega)
      rw [List.getElem?_eq_getElem hi] at h1
      rw [Option.some.inj h1]
      exact Memory.length_of_readRange h2
    · obtain ⟨row, h1, h2⟩ := hrow r hr
      obtain ⟨hlen, hread⟩ := (Memory.readRange_eq_some hw).1 h2
      have := hread c hc
      have e : matAddr r 0 + c = matAddr r c := by unfold matAddr; omega
      rw [e] at this
      rw [this]
      simp [gridAt, List.getD_eq_getElem?_getD, h1, List.getElem?_eq_getElem (show c < row.length by omega)]
  · rintro ⟨hl, hrows, h⟩
    refine readRows_of_getElem hl fun i hi => ?_
    have hg : g[i]? = some (g[i]'(by omega)) := List.getElem?_eq_getElem (by omega)
    rw [Nat.zero_add, hg]
    have hlen := hrows (g[i]'(by omega)) (List.getElem_mem _)
    refine (Memory.readRange_eq_some hw).2 ⟨hlen, fun c hc => ?_⟩
    have e : matAddr i 0 + c = matAddr i c := by unfold matAddr; omega
    rw [e, h i c hi hc]
    simp [gridAt, List.getD_eq_getElem?_getD, hg, List.getElem?_eq_getElem (show c < (g[i]'(by omega)).length by omega)]

/-- The symbol can be read exactly when every module of it was written (R60). -/
theorem readSymbol_isSome {m : Memory} (hw : m.wf) {sd : Nat} :
    (readSymbol m sd).isSome = true ↔ ∀ r c, r < sd → c < sd → (m.read (matAddr r c)).isSome = true := by
  constructor
  · intro h r c hr hc
    obtain ⟨g, hg⟩ := Option.isSome_iff_exists.1 h
    simp [((readSymbol_eq_some hw).1 hg).2.2 r c hr hc]
  · intro h
    have : readSymbol m sd =
        some ((List.range sd).map fun r => (List.range sd).map fun c => (m.read (matAddr r c)).getD 0) := by
      refine (readSymbol_eq_some hw).2 ⟨by simp, by simp, fun r c hr hc => ?_⟩
      obtain ⟨b, hb⟩ := Option.isSome_iff_exists.1 (h r c hr hc)
      simp [gridAt, hr, hc, hb, List.getD_eq_getElem?_getD]
    simp [this]

/-- Two canonical memories that agree on the symbol's modules read the same symbol. -/
theorem readSymbol_congr {m m' : Memory} (hw : m.wf) (hw' : m'.wf) {sd : Nat}
    (h : ∀ r c, r < sd → c < sd → m.read (matAddr r c) = m'.read (matAddr r c)) :
    readSymbol m sd = readSymbol m' sd := by
  ext g
  rw [readSymbol_eq_some hw, readSymbol_eq_some hw']
  constructor <;> rintro ⟨h1, h2, h3⟩ <;> refine ⟨h1, h2, fun r c hr hc => ?_⟩
  · rw [← h r c hr hc]; exact h3 r c hr hc
  · rw [h r c hr hc]; exact h3 r c hr hc

end Sys2Proof.Machine
end

