-- ==== Sys2Proof/Laws/State.lean ====
section
/-! SUPPORT. What each named update of the state and of the result registers does to each field: one lemma per field,
true by rfl, so that no later proof unfolds a record update. -/

namespace Sys2Proof.Machine

open Sys2Proof

section Updates

variable (s : State)

/-! ### State.setRes -/

@[simp] theorem State.setRes_ie (r : Results) : (s.setRes r).ie = s.ie := rfl
@[simp] theorem State.setRes_cmd (r : Results) : (s.setRes r).cmd = s.cmd := rfl
@[simp] theorem State.setRes_done (r : Results) : (s.setRes r).done = s.done := rfl
@[simp] theorem State.setRes_ovr (r : Results) : (s.setRes r).ovr = s.ovr := rfl
@[simp] theorem State.setRes_errCode (r : Results) : (s.setRes r).errCode = s.errCode := rfl
@[simp] theorem State.setRes_errOp (r : Results) : (s.setRes r).errOp = s.errOp := rfl
@[simp] theorem State.setRes_version (r : Results) : (s.setRes r).version = s.version := rfl
@[simp] theorem State.setRes_ecl (r : Results) : (s.setRes r).ecl = s.ecl := rfl
@[simp] theorem State.setRes_arg0 (r : Results) : (s.setRes r).arg0 = s.arg0 := rfl
@[simp] theorem State.setRes_arg1 (r : Results) : (s.setRes r).arg1 = s.arg1 := rfl
@[simp] theorem State.setRes_arg2 (r : Results) : (s.setRes r).arg2 = s.arg2 := rfl
@[simp] theorem State.setRes_res (r : Results) : (s.setRes r).res = r := rfl
@[simp] theorem State.setRes_latch (r : Results) : (s.setRes r).latch = s.latch := rfl
@[simp] theorem State.setRes_mem (r : Results) : (s.setRes r).mem = s.mem := rfl
@[simp] theorem State.setRes_params (r : Results) : (s.setRes r).params = s.params := rfl
@[simp] theorem State.setRes_agenda (r : Results) : (s.setRes r).agenda = s.agenda := rfl
@[simp] theorem State.setRes_reply (r : Results) : (s.setRes r).reply = s.reply := rfl
@[simp] theorem State.setRes_draws (r : Results) : (s.setRes r).draws = s.draws := rfl

/-! ### State.commit -/

@[simp] theorem State.commit_ie (r : Results) (m : Memory) : (s.commit r m).ie = s.ie := rfl
@[simp] theorem State.commit_cmd (r : Results) (m : Memory) : (s.commit r m).cmd = s.cmd := rfl
@[simp] theorem State.commit_done (r : Results) (m : Memory) : (s.commit r m).done = s.done := rfl
@[simp] theorem State.commit_ovr (r : Results) (m : Memory) : (s.commit r m).ovr = s.ovr := rfl
@[simp] theorem State.commit_errCode (r : Results) (m : Memory) : (s.commit r m).errCode = s.errCode := rfl
@[simp] theorem State.commit_errOp (r : Results) (m : Memory) : (s.commit r m).errOp = s.errOp := rfl
@[simp] theorem State.commit_version (r : Results) (m : Memory) : (s.commit r m).version = s.version := rfl
@[simp] theorem State.commit_ecl (r : Results) (m : Memory) : (s.commit r m).ecl = s.ecl := rfl
@[simp] theorem State.commit_arg0 (r : Results) (m : Memory) : (s.commit r m).arg0 = s.arg0 := rfl
@[simp] theorem State.commit_arg1 (r : Results) (m : Memory) : (s.commit r m).arg1 = s.arg1 := rfl
@[simp] theorem State.commit_arg2 (r : Results) (m : Memory) : (s.commit r m).arg2 = s.arg2 := rfl
@[simp] theorem State.commit_res (r : Results) (m : Memory) : (s.commit r m).res = r := rfl
@[simp] theorem State.commit_latch (r : Results) (m : Memory) : (s.commit r m).latch = s.latch := rfl
@[simp] theorem State.commit_mem (r : Results) (m : Memory) : (s.commit r m).mem = m := rfl
@[simp] theorem State.commit_params (r : Results) (m : Memory) : (s.commit r m).params = s.params := rfl
@[simp] theorem State.commit_agenda (r : Results) (m : Memory) : (s.commit r m).agenda = s.agenda := rfl
@[simp] theorem State.commit_reply (r : Results) (m : Memory) : (s.commit r m).reply = s.reply := rfl
@[simp] theorem State.commit_draws (r : Results) (m : Memory) : (s.commit r m).draws = s.draws := rfl

/-! ### State.complete -/

@[simp] theorem State.complete_ie (op code : Byte) : (s.complete op code).ie = s.ie := rfl
@[simp] theorem State.complete_cmd (op code : Byte) : (s.complete op code).cmd = s.cmd := rfl
@[simp] theorem State.complete_done (op code : Byte) : (s.complete op code).done = true := rfl
@[simp] theorem State.complete_ovr (op code : Byte) : (s.complete op code).ovr = s.ovr := rfl
@[simp] theorem State.complete_errCode (op code : Byte) : (s.complete op code).errCode = code := rfl
@[simp] theorem State.complete_errOp (op code : Byte) : (s.complete op code).errOp = op := rfl
@[simp] theorem State.complete_version (op code : Byte) : (s.complete op code).version = s.version := rfl
@[simp] theorem State.complete_ecl (op code : Byte) : (s.complete op code).ecl = s.ecl := rfl
@[simp] theorem State.complete_arg0 (op code : Byte) : (s.complete op code).arg0 = s.arg0 := rfl
@[simp] theorem State.complete_arg1 (op code : Byte) : (s.complete op code).arg1 = s.arg1 := rfl
@[simp] theorem State.complete_arg2 (op code : Byte) : (s.complete op code).arg2 = s.arg2 := rfl
@[simp] theorem State.complete_res (op code : Byte) : (s.complete op code).res = s.res := rfl
@[simp] theorem State.complete_latch (op code : Byte) : (s.complete op code).latch = none := rfl
@[simp] theorem State.complete_mem (op code : Byte) : (s.complete op code).mem = s.mem := rfl
@[simp] theorem State.complete_params (op code : Byte) : (s.complete op code).params = s.params := rfl
@[simp] theorem State.complete_agenda (op code : Byte) : (s.complete op code).agenda = s.agenda := rfl
@[simp] theorem State.complete_reply (op code : Byte) : (s.complete op code).reply = s.reply := rfl
@[simp] theorem State.complete_draws (op code : Byte) : (s.complete op code).draws = s.draws := rfl

/-! ### State.answer -/

@[simp] theorem State.answer_ie (r : Reply) : (s.answer r).ie = s.ie := rfl
@[simp] theorem State.answer_cmd (r : Reply) : (s.answer r).cmd = s.cmd := rfl
@[simp] theorem State.answer_done (r : Reply) : (s.answer r).done = s.done := rfl
@[simp] theorem State.answer_ovr (r : Reply) : (s.answer r).ovr = s.ovr := rfl
@[simp] theorem State.answer_errCode (r : Reply) : (s.answer r).errCode = s.errCode := rfl
@[simp] theorem State.answer_errOp (r : Reply) : (s.answer r).errOp = s.errOp := rfl
@[simp] theorem State.answer_version (r : Reply) : (s.answer r).version = s.version := rfl
@[simp] theorem State.answer_ecl (r : Reply) : (s.answer r).ecl = s.ecl := rfl
@[simp] theorem State.answer_arg0 (r : Reply) : (s.answer r).arg0 = s.arg0 := rfl
@[simp] theorem State.answer_arg1 (r : Reply) : (s.answer r).arg1 = s.arg1 := rfl
@[simp] theorem State.answer_arg2 (r : Reply) : (s.answer r).arg2 = s.arg2 := rfl
@[simp] theorem State.answer_res (r : Reply) : (s.answer r).res = s.res := rfl
@[simp] theorem State.answer_latch (r : Reply) : (s.answer r).latch = s.latch := rfl
@[simp] theorem State.answer_mem (r : Reply) : (s.answer r).mem = s.mem := rfl
@[simp] theorem State.answer_params (r : Reply) : (s.answer r).params = s.params := rfl
@[simp] theorem State.answer_agenda (r : Reply) : (s.answer r).agenda = s.agenda := rfl
@[simp] theorem State.answer_reply (r : Reply) : (s.answer r).reply = r := rfl
@[simp] theorem State.answer_draws (r : Reply) : (s.answer r).draws = s.draws := rfl

/-! ### State.acknowledge -/

@[simp] theorem State.acknowledge_ie (b : Bool) : (s.acknowledge b).ie = s.ie := rfl
@[simp] theorem State.acknowledge_cmd (b : Bool) : (s.acknowledge b).cmd = s.cmd := rfl
@[simp] theorem State.acknowledge_done (b : Bool) : (s.acknowledge b).done = (s.done && !b) := rfl
@[simp] theorem State.acknowledge_ovr (b : Bool) : (s.acknowledge b).ovr = s.ovr := rfl
@[simp] theorem State.acknowledge_errCode (b : Bool) : (s.acknowledge b).errCode = s.errCode := rfl
@[simp] theorem State.acknowledge_errOp (b : Bool) : (s.acknowledge b).errOp = s.errOp := rfl
@[simp] theorem State.acknowledge_version (b : Bool) : (s.acknowledge b).version = s.version := rfl
@[simp] theorem State.acknowledge_ecl (b : Bool) : (s.acknowledge b).ecl = s.ecl := rfl
@[simp] theorem State.acknowledge_arg0 (b : Bool) : (s.acknowledge b).arg0 = s.arg0 := rfl
@[simp] theorem State.acknowledge_arg1 (b : Bool) : (s.acknowledge b).arg1 = s.arg1 := rfl
@[simp] theorem State.acknowledge_arg2 (b : Bool) : (s.acknowledge b).arg2 = s.arg2 := rfl
@[simp] theorem State.acknowledge_res (b : Bool) : (s.acknowledge b).res = s.res := rfl
@[simp] theorem State.acknowledge_latch (b : Bool) : (s.acknowledge b).latch = s.latch := rfl
@[simp] theorem State.acknowledge_mem (b : Bool) : (s.acknowledge b).mem = s.mem := rfl
@[simp] theorem State.acknowledge_params (b : Bool) : (s.acknowledge b).params = s.params := rfl
@[simp] theorem State.acknowledge_agenda (b : Bool) : (s.acknowledge b).agenda = s.agenda := rfl
@[simp] theorem State.acknowledge_reply (b : Bool) : (s.acknowledge b).reply = s.reply := rfl
@[simp] theorem State.acknowledge_draws (b : Bool) : (s.acknowledge b).draws = s.draws := rfl

/-! ### State.clearOverrun -/

@[simp] theorem State.clearOverrun_ie (b : Bool) : (s.clearOverrun b).ie = s.ie := rfl
@[simp] theorem State.clearOverrun_cmd (b : Bool) : (s.clearOverrun b).cmd = s.cmd := rfl
@[simp] theorem State.clearOverrun_done (b : Bool) : (s.clearOverrun b).done = s.done := rfl
@[simp] theorem State.clearOverrun_ovr (b : Bool) : (s.clearOverrun b).ovr = (s.ovr && !b) := rfl
@[simp] theorem State.clearOverrun_errCode (b : Bool) : (s.clearOverrun b).errCode = s.errCode := rfl
@[simp] theorem State.clearOverrun_errOp (b : Bool) : (s.clearOverrun b).errOp = s.errOp := rfl
@[simp] theorem State.clearOverrun_version (b : Bool) : (s.clearOverrun b).version = s.version := rfl
@[simp] theorem State.clearOverrun_ecl (b : Bool) : (s.clearOverrun b).ecl = s.ecl := rfl
@[simp] theorem State.clearOverrun_arg0 (b : Bool) : (s.clearOverrun b).arg0 = s.arg0 := rfl
@[simp] theorem State.clearOverrun_arg1 (b : Bool) : (s.clearOverrun b).arg1 = s.arg1 := rfl
@[simp] theorem State.clearOverrun_arg2 (b : Bool) : (s.clearOverrun b).arg2 = s.arg2 := rfl
@[simp] theorem State.clearOverrun_res (b : Bool) : (s.clearOverrun b).res = s.res := rfl
@[simp] theorem State.clearOverrun_latch (b : Bool) : (s.clearOverrun b).latch = s.latch := rfl
@[simp] theorem State.clearOverrun_mem (b : Bool) : (s.clearOverrun b).mem = s.mem := rfl
@[simp] theorem State.clearOverrun_params (b : Bool) : (s.clearOverrun b).params = s.params := rfl
@[simp] theorem State.clearOverrun_agenda (b : Bool) : (s.clearOverrun b).agenda = s.agenda := rfl
@[simp] theorem State.clearOverrun_reply (b : Bool) : (s.clearOverrun b).reply = s.reply := rfl
@[simp] theorem State.clearOverrun_draws (b : Bool) : (s.clearOverrun b).draws = s.draws := rfl

/-! ### State.overrun -/

@[simp] theorem State.overrun_ie : s.overrun.ie = s.ie := rfl
@[simp] theorem State.overrun_cmd : s.overrun.cmd = s.cmd := rfl
@[simp] theorem State.overrun_done : s.overrun.done = s.done := rfl
@[simp] theorem State.overrun_ovr : s.overrun.ovr = true := rfl
@[simp] theorem State.overrun_errCode : s.overrun.errCode = s.errCode := rfl
@[simp] theorem State.overrun_errOp : s.overrun.errOp = s.errOp := rfl
@[simp] theorem State.overrun_version : s.overrun.version = s.version := rfl
@[simp] theorem State.overrun_ecl : s.overrun.ecl = s.ecl := rfl
@[simp] theorem State.overrun_arg0 : s.overrun.arg0 = s.arg0 := rfl
@[simp] theorem State.overrun_arg1 : s.overrun.arg1 = s.arg1 := rfl
@[simp] theorem State.overrun_arg2 : s.overrun.arg2 = s.arg2 := rfl
@[simp] theorem State.overrun_res : s.overrun.res = s.res := rfl
@[simp] theorem State.overrun_latch : s.overrun.latch = s.latch := rfl
@[simp] theorem State.overrun_mem : s.overrun.mem = s.mem := rfl
@[simp] theorem State.overrun_params : s.overrun.params = s.params := rfl
@[simp] theorem State.overrun_agenda : s.overrun.agenda = s.agenda := rfl
@[simp] theorem State.overrun_reply : s.overrun.reply = s.reply := rfl
@[simp] theorem State.overrun_draws : s.overrun.draws = s.draws := rfl

/-! ### State.accept -/

@[simp] theorem State.accept_ie (w : Word) : (s.accept w).ie = s.ie := rfl
@[simp] theorem State.accept_cmd (w : Word) : (s.accept w).cmd = w := rfl
@[simp] theorem State.accept_done (w : Word) : (s.accept w).done = false := rfl
@[simp] theorem State.accept_ovr (w : Word) : (s.accept w).ovr = s.ovr := rfl
@[simp] theorem State.accept_errCode (w : Word) : (s.accept w).errCode = s.errCode := rfl
@[simp] theorem State.accept_errOp (w : Word) : (s.accept w).errOp = s.errOp := rfl
@[simp] theorem State.accept_version (w : Word) : (s.accept w).version = s.version := rfl
@[simp] theorem State.accept_ecl (w : Word) : (s.accept w).ecl = s.ecl := rfl
@[simp] theorem State.accept_arg0 (w : Word) : (s.accept w).arg0 = s.arg0 := rfl
@[simp] theorem State.accept_arg1 (w : Word) : (s.accept w).arg1 = s.arg1 := rfl
@[simp] theorem State.accept_arg2 (w : Word) : (s.accept w).arg2 = s.arg2 := rfl
@[simp] theorem State.accept_res (w : Word) : (s.accept w).res = s.res := rfl
@[simp] theorem State.accept_latch (w : Word) : (s.accept w).latch = some (s.latchOf w) := rfl
@[simp] theorem State.accept_mem (w : Word) : (s.accept w).mem = s.mem := rfl
@[simp] theorem State.accept_params (w : Word) : (s.accept w).params = s.params := rfl
@[simp] theorem State.accept_agenda (w : Word) : (s.accept w).agenda = s.agenda := rfl
@[simp] theorem State.accept_reply (w : Word) : (s.accept w).reply = s.reply := rfl
@[simp] theorem State.accept_draws (w : Word) : (s.accept w).draws = s.draws := rfl

/-! ### State.withAgenda -/

@[simp] theorem State.withAgenda_ie (es : List Event) : (s.withAgenda es).ie = s.ie := rfl
@[simp] theorem State.withAgenda_cmd (es : List Event) : (s.withAgenda es).cmd = s.cmd := rfl
@[simp] theorem State.withAgenda_done (es : List Event) : (s.withAgenda es).done = s.done := rfl
@[simp] theorem State.withAgenda_ovr (es : List Event) : (s.withAgenda es).ovr = s.ovr := rfl
@[simp] theorem State.withAgenda_errCode (es : List Event) : (s.withAgenda es).errCode = s.errCode := rfl
@[simp] theorem State.withAgenda_errOp (es : List Event) : (s.withAgenda es).errOp = s.errOp := rfl
@[simp] theorem State.withAgenda_version (es : List Event) : (s.withAgenda es).version = s.version := rfl
@[simp] theorem State.withAgenda_ecl (es : List Event) : (s.withAgenda es).ecl = s.ecl := rfl
@[simp] theorem State.withAgenda_arg0 (es : List Event) : (s.withAgenda es).arg0 = s.arg0 := rfl
@[simp] theorem State.withAgenda_arg1 (es : List Event) : (s.withAgenda es).arg1 = s.arg1 := rfl
@[simp] theorem State.withAgenda_arg2 (es : List Event) : (s.withAgenda es).arg2 = s.arg2 := rfl
@[simp] theorem State.withAgenda_res (es : List Event) : (s.withAgenda es).res = s.res := rfl
@[simp] theorem State.withAgenda_latch (es : List Event) : (s.withAgenda es).latch = s.latch := rfl
@[simp] theorem State.withAgenda_mem (es : List Event) : (s.withAgenda es).mem = s.mem := rfl
@[simp] theorem State.withAgenda_params (es : List Event) : (s.withAgenda es).params = s.params := rfl
@[simp] theorem State.withAgenda_agenda (es : List Event) : (s.withAgenda es).agenda = es := rfl
@[simp] theorem State.withAgenda_reply (es : List Event) : (s.withAgenda es).reply = s.reply := rfl
@[simp] theorem State.withAgenda_draws (es : List Event) : (s.withAgenda es).draws = s.draws := rfl

/-! ### State.setGfRes -/

@[simp] theorem State.setGfRes_ie (v : Byte) : (s.setGfRes v).ie = s.ie := rfl
@[simp] theorem State.setGfRes_cmd (v : Byte) : (s.setGfRes v).cmd = s.cmd := rfl
@[simp] theorem State.setGfRes_done (v : Byte) : (s.setGfRes v).done = s.done := rfl
@[simp] theorem State.setGfRes_ovr (v : Byte) : (s.setGfRes v).ovr = s.ovr := rfl
@[simp] theorem State.setGfRes_errCode (v : Byte) : (s.setGfRes v).errCode = s.errCode := rfl
@[simp] theorem State.setGfRes_errOp (v : Byte) : (s.setGfRes v).errOp = s.errOp := rfl
@[simp] theorem State.setGfRes_version (v : Byte) : (s.setGfRes v).version = s.version := rfl
@[simp] theorem State.setGfRes_ecl (v : Byte) : (s.setGfRes v).ecl = s.ecl := rfl
@[simp] theorem State.setGfRes_arg0 (v : Byte) : (s.setGfRes v).arg0 = s.arg0 := rfl
@[simp] theorem State.setGfRes_arg1 (v : Byte) : (s.setGfRes v).arg1 = s.arg1 := rfl
@[simp] theorem State.setGfRes_arg2 (v : Byte) : (s.setGfRes v).arg2 = s.arg2 := rfl
@[simp] theorem State.setGfRes_res (v : Byte) : (s.setGfRes v).res = { s.res with gfRes := v } := rfl
@[simp] theorem State.setGfRes_latch (v : Byte) : (s.setGfRes v).latch = s.latch := rfl
@[simp] theorem State.setGfRes_mem (v : Byte) : (s.setGfRes v).mem = s.mem := rfl
@[simp] theorem State.setGfRes_params (v : Byte) : (s.setGfRes v).params = s.params := rfl
@[simp] theorem State.setGfRes_agenda (v : Byte) : (s.setGfRes v).agenda = s.agenda := rfl
@[simp] theorem State.setGfRes_reply (v : Byte) : (s.setGfRes v).reply = s.reply := rfl
@[simp] theorem State.setGfRes_draws (v : Byte) : (s.setGfRes v).draws = s.draws := rfl

/-! ### State.resetCsrs -/

@[simp] theorem State.resetCsrs_ie : s.resetCsrs.ie = State.reset.ie := rfl
@[simp] theorem State.resetCsrs_cmd : s.resetCsrs.cmd = State.reset.cmd := rfl
@[simp] theorem State.resetCsrs_done : s.resetCsrs.done = State.reset.done := rfl
@[simp] theorem State.resetCsrs_ovr : s.resetCsrs.ovr = State.reset.ovr := rfl
@[simp] theorem State.resetCsrs_errCode : s.resetCsrs.errCode = State.reset.errCode := rfl
@[simp] theorem State.resetCsrs_errOp : s.resetCsrs.errOp = State.reset.errOp := rfl
@[simp] theorem State.resetCsrs_version : s.resetCsrs.version = State.reset.version := rfl
@[simp] theorem State.resetCsrs_ecl : s.resetCsrs.ecl = State.reset.ecl := rfl
@[simp] theorem State.resetCsrs_arg0 : s.resetCsrs.arg0 = State.reset.arg0 := rfl
@[simp] theorem State.resetCsrs_arg1 : s.resetCsrs.arg1 = State.reset.arg1 := rfl
@[simp] theorem State.resetCsrs_arg2 : s.resetCsrs.arg2 = State.reset.arg2 := rfl
@[simp] theorem State.resetCsrs_res : s.resetCsrs.res = State.reset.res := rfl
@[simp] theorem State.resetCsrs_latch : s.resetCsrs.latch = State.reset.latch := rfl
@[simp] theorem State.resetCsrs_mem : s.resetCsrs.mem = s.mem := rfl
@[simp] theorem State.resetCsrs_params : s.resetCsrs.params = s.params := rfl
@[simp] theorem State.resetCsrs_agenda : s.resetCsrs.agenda = s.agenda := rfl
@[simp] theorem State.resetCsrs_reply : s.resetCsrs.reply = s.reply := rfl
@[simp] theorem State.resetCsrs_draws : s.resetCsrs.draws = s.draws := rfl

/-! ### State.hardReset -/

@[simp] theorem State.hardReset_ie : s.hardReset.ie = State.reset.ie := rfl
@[simp] theorem State.hardReset_cmd : s.hardReset.cmd = State.reset.cmd := rfl
@[simp] theorem State.hardReset_done : s.hardReset.done = State.reset.done := rfl
@[simp] theorem State.hardReset_ovr : s.hardReset.ovr = State.reset.ovr := rfl
@[simp] theorem State.hardReset_errCode : s.hardReset.errCode = State.reset.errCode := rfl
@[simp] theorem State.hardReset_errOp : s.hardReset.errOp = State.reset.errOp := rfl
@[simp] theorem State.hardReset_version : s.hardReset.version = State.reset.version := rfl
@[simp] theorem State.hardReset_ecl : s.hardReset.ecl = State.reset.ecl := rfl
@[simp] theorem State.hardReset_arg0 : s.hardReset.arg0 = State.reset.arg0 := rfl
@[simp] theorem State.hardReset_arg1 : s.hardReset.arg1 = State.reset.arg1 := rfl
@[simp] theorem State.hardReset_arg2 : s.hardReset.arg2 = State.reset.arg2 := rfl
@[simp] theorem State.hardReset_res : s.hardReset.res = State.reset.res := rfl
@[simp] theorem State.hardReset_latch : s.hardReset.latch = State.reset.latch := rfl
@[simp] theorem State.hardReset_mem : s.hardReset.mem = State.reset.mem := rfl
@[simp] theorem State.hardReset_params : s.hardReset.params = s.params := rfl
@[simp] theorem State.hardReset_agenda : s.hardReset.agenda = s.agenda := rfl
@[simp] theorem State.hardReset_reply : s.hardReset.reply = State.reset.reply := rfl
@[simp] theorem State.hardReset_draws : s.hardReset.draws = s.draws := rfl

end Updates

section ResultUpdates

variable (r : Results)

/-! ### Results.setGen -/

@[simp] theorem Results.setGen_synz (n : Nat) : (r.setGen n).synz = r.synz := rfl
@[simp] theorem Results.setGen_eccDone (n : Nat) : (r.setGen n).eccDone = r.eccDone := rfl
@[simp] theorem Results.setGen_ilvDone (n : Nat) : (r.setGen n).ilvDone = r.ilvDone := rfl
@[simp] theorem Results.setGen_funcDone (n : Nat) : (r.setGen n).funcDone = r.funcDone := rfl
@[simp] theorem Results.setGen_placed (n : Nat) : (r.setGen n).placed = r.placed := rfl
@[simp] theorem Results.setGen_searched (n : Nat) : (r.setGen n).searched = r.searched := rfl
@[simp] theorem Results.setGen_masked (n : Nat) : (r.setGen n).masked = r.masked := rfl
@[simp] theorem Results.setGen_fmtDone (n : Nat) : (r.setGen n).fmtDone = r.fmtDone := rfl
@[simp] theorem Results.setGen_verDone (n : Nat) : (r.setGen n).verDone = r.verDone := rfl
@[simp] theorem Results.setGen_gfRes (n : Nat) : (r.setGen n).gfRes = r.gfRes := rfl
@[simp] theorem Results.setGen_genDeg (n : Nat) : (r.setGen n).genDeg = BitVec.ofNat 6 n := rfl
@[simp] theorem Results.setGen_gen (n : Nat) : (r.setGen n).gen = genRegisters (genPoly n) := rfl
@[simp] theorem Results.setGen_synd (n : Nat) : (r.setGen n).synd = r.synd := rfl
@[simp] theorem Results.setGen_chosenMask (n : Nat) : (r.setGen n).chosenMask = r.chosenMask := rfl
@[simp] theorem Results.setGen_chosenValid (n : Nat) : (r.setGen n).chosenValid = r.chosenValid := rfl
@[simp] theorem Results.setGen_fmtWord (n : Nat) : (r.setGen n).fmtWord = r.fmtWord := rfl
@[simp] theorem Results.setGen_verWord (n : Nat) : (r.setGen n).verWord = r.verWord := rfl
@[simp] theorem Results.setGen_cwLen (n : Nat) : (r.setGen n).cwLen = r.cwLen := rfl
@[simp] theorem Results.setGen_mxVersion (n : Nat) : (r.setGen n).mxVersion = r.mxVersion := rfl
@[simp] theorem Results.setGen_penRule (n : Nat) : (r.setGen n).penRule = r.penRule := rfl
@[simp] theorem Results.setGen_penTotal (n : Nat) : (r.setGen n).penTotal = r.penTotal := rfl

/-! ### Results.setSynd -/

@[simp] theorem Results.setSynd_synz (n : Nat) (c : List Byte) : (r.setSynd n c).synz = syndromesZero n c := rfl
@[simp] theorem Results.setSynd_eccDone (n : Nat) (c : List Byte) : (r.setSynd n c).eccDone = r.eccDone := rfl
@[simp] theorem Results.setSynd_ilvDone (n : Nat) (c : List Byte) : (r.setSynd n c).ilvDone = r.ilvDone := rfl
@[simp] theorem Results.setSynd_funcDone (n : Nat) (c : List Byte) : (r.setSynd n c).funcDone = r.funcDone := rfl
@[simp] theorem Results.setSynd_placed (n : Nat) (c : List Byte) : (r.setSynd n c).placed = r.placed := rfl
@[simp] theorem Results.setSynd_searched (n : Nat) (c : List Byte) : (r.setSynd n c).searched = r.searched := rfl
@[simp] theorem Results.setSynd_masked (n : Nat) (c : List Byte) : (r.setSynd n c).masked = r.masked := rfl
@[simp] theorem Results.setSynd_fmtDone (n : Nat) (c : List Byte) : (r.setSynd n c).fmtDone = r.fmtDone := rfl
@[simp] theorem Results.setSynd_verDone (n : Nat) (c : List Byte) : (r.setSynd n c).verDone = r.verDone := rfl
@[simp] theorem Results.setSynd_gfRes (n : Nat) (c : List Byte) : (r.setSynd n c).gfRes = r.gfRes := rfl
@[simp] theorem Results.setSynd_genDeg (n : Nat) (c : List Byte) : (r.setSynd n c).genDeg = r.genDeg := rfl
@[simp] theorem Results.setSynd_gen (n : Nat) (c : List Byte) : (r.setSynd n c).gen = r.gen := rfl
@[simp] theorem Results.setSynd_synd (n : Nat) (c : List Byte) : (r.setSynd n c).synd = syndromes n c := rfl
@[simp] theorem Results.setSynd_chosenMask (n : Nat) (c : List Byte) : (r.setSynd n c).chosenMask = r.chosenMask := rfl
@[simp] theorem Results.setSynd_chosenValid (n : Nat) (c : List Byte) : (r.setSynd n c).chosenValid = r.chosenValid := rfl
@[simp] theorem Results.setSynd_fmtWord (n : Nat) (c : List Byte) : (r.setSynd n c).fmtWord = r.fmtWord := rfl
@[simp] theorem Results.setSynd_verWord (n : Nat) (c : List Byte) : (r.setSynd n c).verWord = r.verWord := rfl
@[simp] theorem Results.setSynd_cwLen (n : Nat) (c : List Byte) : (r.setSynd n c).cwLen = r.cwLen := rfl
@[simp] theorem Results.setSynd_mxVersion (n : Nat) (c : List Byte) : (r.setSynd n c).mxVersion = r.mxVersion := rfl
@[simp] theorem Results.setSynd_penRule (n : Nat) (c : List Byte) : (r.setSynd n c).penRule = r.penRule := rfl
@[simp] theorem Results.setSynd_penTotal (n : Nat) (c : List Byte) : (r.setSynd n c).penTotal = r.penTotal := rfl

/-! ### Results.setCwLen -/

@[simp] theorem Results.setCwLen_synz (n : Nat) : (r.setCwLen n).synz = r.synz := rfl
@[simp] theorem Results.setCwLen_eccDone (n : Nat) : (r.setCwLen n).eccDone = r.eccDone := rfl
@[simp] theorem Results.setCwLen_ilvDone (n : Nat) : (r.setCwLen n).ilvDone = r.ilvDone := rfl
@[simp] theorem Results.setCwLen_funcDone (n : Nat) : (r.setCwLen n).funcDone = r.funcDone := rfl
@[simp] theorem Results.setCwLen_placed (n : Nat) : (r.setCwLen n).placed = r.placed := rfl
@[simp] theorem Results.setCwLen_searched (n : Nat) : (r.setCwLen n).searched = r.searched := rfl
@[simp] theorem Results.setCwLen_masked (n : Nat) : (r.setCwLen n).masked = r.masked := rfl
@[simp] theorem Results.setCwLen_fmtDone (n : Nat) : (r.setCwLen n).fmtDone = r.fmtDone := rfl
@[simp] theorem Results.setCwLen_verDone (n : Nat) : (r.setCwLen n).verDone = r.verDone := rfl
@[simp] theorem Results.setCwLen_gfRes (n : Nat) : (r.setCwLen n).gfRes = r.gfRes := rfl
@[simp] theorem Results.setCwLen_genDeg (n : Nat) : (r.setCwLen n).genDeg = r.genDeg := rfl
@[simp] theorem Results.setCwLen_gen (n : Nat) : (r.setCwLen n).gen = r.gen := rfl
@[simp] theorem Results.setCwLen_synd (n : Nat) : (r.setCwLen n).synd = r.synd := rfl
@[simp] theorem Results.setCwLen_chosenMask (n : Nat) : (r.setCwLen n).chosenMask = r.chosenMask := rfl
@[simp] theorem Results.setCwLen_chosenValid (n : Nat) : (r.setCwLen n).chosenValid = r.chosenValid := rfl
@[simp] theorem Results.setCwLen_fmtWord (n : Nat) : (r.setCwLen n).fmtWord = r.fmtWord := rfl
@[simp] theorem Results.setCwLen_verWord (n : Nat) : (r.setCwLen n).verWord = r.verWord := rfl
@[simp] theorem Results.setCwLen_cwLen (n : Nat) : (r.setCwLen n).cwLen = BitVec.ofNat 12 n := rfl
@[simp] theorem Results.setCwLen_mxVersion (n : Nat) : (r.setCwLen n).mxVersion = r.mxVersion := rfl
@[simp] theorem Results.setCwLen_penRule (n : Nat) : (r.setCwLen n).penRule = r.penRule := rfl
@[simp] theorem Results.setCwLen_penTotal (n : Nat) : (r.setCwLen n).penTotal = r.penTotal := rfl

/-! ### Results.setDrawn -/

@[simp] theorem Results.setDrawn_synz (v : BitVec 6) : (r.setDrawn v).synz = r.synz := rfl
@[simp] theorem Results.setDrawn_eccDone (v : BitVec 6) : (r.setDrawn v).eccDone = r.eccDone := rfl
@[simp] theorem Results.setDrawn_ilvDone (v : BitVec 6) : (r.setDrawn v).ilvDone = r.ilvDone := rfl
@[simp] theorem Results.setDrawn_funcDone (v : BitVec 6) : (r.setDrawn v).funcDone = r.funcDone := rfl
@[simp] theorem Results.setDrawn_placed (v : BitVec 6) : (r.setDrawn v).placed = r.placed := rfl
@[simp] theorem Results.setDrawn_searched (v : BitVec 6) : (r.setDrawn v).searched = r.searched := rfl
@[simp] theorem Results.setDrawn_masked (v : BitVec 6) : (r.setDrawn v).masked = r.masked := rfl
@[simp] theorem Results.setDrawn_fmtDone (v : BitVec 6) : (r.setDrawn v).fmtDone = r.fmtDone := rfl
@[simp] theorem Results.setDrawn_verDone (v : BitVec 6) : (r.setDrawn v).verDone = r.verDone := rfl
@[simp] theorem Results.setDrawn_gfRes (v : BitVec 6) : (r.setDrawn v).gfRes = r.gfRes := rfl
@[simp] theorem Results.setDrawn_genDeg (v : BitVec 6) : (r.setDrawn v).genDeg = r.genDeg := rfl
@[simp] theorem Results.setDrawn_gen (v : BitVec 6) : (r.setDrawn v).gen = r.gen := rfl
@[simp] theorem Results.setDrawn_synd (v : BitVec 6) : (r.setDrawn v).synd = r.synd := rfl
@[simp] theorem Results.setDrawn_chosenMask (v : BitVec 6) : (r.setDrawn v).chosenMask = r.chosenMask := rfl
@[simp] theorem Results.setDrawn_chosenValid (v : BitVec 6) : (r.setDrawn v).chosenValid = false := rfl
@[simp] theorem Results.setDrawn_fmtWord (v : BitVec 6) : (r.setDrawn v).fmtWord = r.fmtWord := rfl
@[simp] theorem Results.setDrawn_verWord (v : BitVec 6) : (r.setDrawn v).verWord = r.verWord := rfl
@[simp] theorem Results.setDrawn_cwLen (v : BitVec 6) : (r.setDrawn v).cwLen = r.cwLen := rfl
@[simp] theorem Results.setDrawn_mxVersion (v : BitVec 6) : (r.setDrawn v).mxVersion = v := rfl
@[simp] theorem Results.setDrawn_penRule (v : BitVec 6) : (r.setDrawn v).penRule = r.penRule := rfl
@[simp] theorem Results.setDrawn_penTotal (v : BitVec 6) : (r.setDrawn v).penTotal = r.penTotal := rfl

/-! ### Results.setFmtWord -/

@[simp] theorem Results.setFmtWord_synz (w : BitVec 15) : (r.setFmtWord w).synz = r.synz := rfl
@[simp] theorem Results.setFmtWord_eccDone (w : BitVec 15) : (r.setFmtWord w).eccDone = r.eccDone := rfl
@[simp] theorem Results.setFmtWord_ilvDone (w : BitVec 15) : (r.setFmtWord w).ilvDone = r.ilvDone := rfl
@[simp] theorem Results.setFmtWord_funcDone (w : BitVec 15) : (r.setFmtWord w).funcDone = r.funcDone := rfl
@[simp] theorem Results.setFmtWord_placed (w : BitVec 15) : (r.setFmtWord w).placed = r.placed := rfl
@[simp] theorem Results.setFmtWord_searched (w : BitVec 15) : (r.setFmtWord w).searched = r.searched := rfl
@[simp] theorem Results.setFmtWord_masked (w : BitVec 15) : (r.setFmtWord w).masked = r.masked := rfl
@[simp] theorem Results.setFmtWord_fmtDone (w : BitVec 15) : (r.setFmtWord w).fmtDone = r.fmtDone := rfl
@[simp] theorem Results.setFmtWord_verDone (w : BitVec 15) : (r.setFmtWord w).verDone = r.verDone := rfl
@[simp] theorem Results.setFmtWord_gfRes (w : BitVec 15) : (r.setFmtWord w).gfRes = r.gfRes := rfl
@[simp] theorem Results.setFmtWord_genDeg (w : BitVec 15) : (r.setFmtWord w).genDeg = r.genDeg := rfl
@[simp] theorem Results.setFmtWord_gen (w : BitVec 15) : (r.setFmtWord w).gen = r.gen := rfl
@[simp] theorem Results.setFmtWord_synd (w : BitVec 15) : (r.setFmtWord w).synd = r.synd := rfl
@[simp] theorem Results.setFmtWord_chosenMask (w : BitVec 15) : (r.setFmtWord w).chosenMask = r.chosenMask := rfl
@[simp] theorem Results.setFmtWord_chosenValid (w : BitVec 15) : (r.setFmtWord w).chosenValid = r.chosenValid := rfl
@[simp] theorem Results.setFmtWord_fmtWord (w : BitVec 15) : (r.setFmtWord w).fmtWord = w := rfl
@[simp] theorem Results.setFmtWord_verWord (w : BitVec 15) : (r.setFmtWord w).verWord = r.verWord := rfl
@[simp] theorem Results.setFmtWord_cwLen (w : BitVec 15) : (r.setFmtWord w).cwLen = r.cwLen := rfl
@[simp] theorem Results.setFmtWord_mxVersion (w : BitVec 15) : (r.setFmtWord w).mxVersion = r.mxVersion := rfl
@[simp] theorem Results.setFmtWord_penRule (w : BitVec 15) : (r.setFmtWord w).penRule = r.penRule := rfl
@[simp] theorem Results.setFmtWord_penTotal (w : BitVec 15) : (r.setFmtWord w).penTotal = r.penTotal := rfl

/-! ### Results.setVerWord -/

@[simp] theorem Results.setVerWord_synz (w : BitVec 18) : (r.setVerWord w).synz = r.synz := rfl
@[simp] theorem Results.setVerWord_eccDone (w : BitVec 18) : (r.setVerWord w).eccDone = r.eccDone := rfl
@[simp] theorem Results.setVerWord_ilvDone (w : BitVec 18) : (r.setVerWord w).ilvDone = r.ilvDone := rfl
@[simp] theorem Results.setVerWord_funcDone (w : BitVec 18) : (r.setVerWord w).funcDone = r.funcDone := rfl
@[simp] theorem Results.setVerWord_placed (w : BitVec 18) : (r.setVerWord w).placed = r.placed := rfl
@[simp] theorem Results.setVerWord_searched (w : BitVec 18) : (r.setVerWord w).searched = r.searched := rfl
@[simp] theorem Results.setVerWord_masked (w : BitVec 18) : (r.setVerWord w).masked = r.masked := rfl
@[simp] theorem Results.setVerWord_fmtDone (w : BitVec 18) : (r.setVerWord w).fmtDone = r.fmtDone := rfl
@[simp] theorem Results.setVerWord_verDone (w : BitVec 18) : (r.setVerWord w).verDone = r.verDone := rfl
@[simp] theorem Results.setVerWord_gfRes (w : BitVec 18) : (r.setVerWord w).gfRes = r.gfRes := rfl
@[simp] theorem Results.setVerWord_genDeg (w : BitVec 18) : (r.setVerWord w).genDeg = r.genDeg := rfl
@[simp] theorem Results.setVerWord_gen (w : BitVec 18) : (r.setVerWord w).gen = r.gen := rfl
@[simp] theorem Results.setVerWord_synd (w : BitVec 18) : (r.setVerWord w).synd = r.synd := rfl
@[simp] theorem Results.setVerWord_chosenMask (w : BitVec 18) : (r.setVerWord w).chosenMask = r.chosenMask := rfl
@[simp] theorem Results.setVerWord_chosenValid (w : BitVec 18) : (r.setVerWord w).chosenValid = r.chosenValid := rfl
@[simp] theorem Results.setVerWord_fmtWord (w : BitVec 18) : (r.setVerWord w).fmtWord = r.fmtWord := rfl
@[simp] theorem Results.setVerWord_verWord (w : BitVec 18) : (r.setVerWord w).verWord = w := rfl
@[simp] theorem Results.setVerWord_cwLen (w : BitVec 18) : (r.setVerWord w).cwLen = r.cwLen := rfl
@[simp] theorem Results.setVerWord_mxVersion (w : BitVec 18) : (r.setVerWord w).mxVersion = r.mxVersion := rfl
@[simp] theorem Results.setVerWord_penRule (w : BitVec 18) : (r.setVerWord w).penRule = r.penRule := rfl
@[simp] theorem Results.setVerWord_penTotal (w : BitVec 18) : (r.setVerWord w).penTotal = r.penTotal := rfl

/-! ### Results.setPen -/

@[simp] theorem Results.setPen_synz (k : Nat) (ns : List Nat) : (r.setPen k ns).synz = r.synz := rfl
@[simp] theorem Results.setPen_eccDone (k : Nat) (ns : List Nat) : (r.setPen k ns).eccDone = r.eccDone := rfl
@[simp] theorem Results.setPen_ilvDone (k : Nat) (ns : List Nat) : (r.setPen k ns).ilvDone = r.ilvDone := rfl
@[simp] theorem Results.setPen_funcDone (k : Nat) (ns : List Nat) : (r.setPen k ns).funcDone = r.funcDone := rfl
@[simp] theorem Results.setPen_placed (k : Nat) (ns : List Nat) : (r.setPen k ns).placed = r.placed := rfl
@[simp] theorem Results.setPen_searched (k : Nat) (ns : List Nat) : (r.setPen k ns).searched = r.searched := rfl
@[simp] theorem Results.setPen_masked (k : Nat) (ns : List Nat) : (r.setPen k ns).masked = r.masked := rfl
@[simp] theorem Results.setPen_fmtDone (k : Nat) (ns : List Nat) : (r.setPen k ns).fmtDone = r.fmtDone := rfl
@[simp] theorem Results.setPen_verDone (k : Nat) (ns : List Nat) : (r.setPen k ns).verDone = r.verDone := rfl
@[simp] theorem Results.setPen_gfRes (k : Nat) (ns : List Nat) : (r.setPen k ns).gfRes = r.gfRes := rfl
@[simp] theorem Results.setPen_genDeg (k : Nat) (ns : List Nat) : (r.setPen k ns).genDeg = r.genDeg := rfl
@[simp] theorem Results.setPen_gen (k : Nat) (ns : List Nat) : (r.setPen k ns).gen = r.gen := rfl
@[simp] theorem Results.setPen_synd (k : Nat) (ns : List Nat) : (r.setPen k ns).synd = r.synd := rfl
@[simp] theorem Results.setPen_chosenMask (k : Nat) (ns : List Nat) : (r.setPen k ns).chosenMask = r.chosenMask := rfl
@[simp] theorem Results.setPen_chosenValid (k : Nat) (ns : List Nat) : (r.setPen k ns).chosenValid = r.chosenValid := rfl
@[simp] theorem Results.setPen_fmtWord (k : Nat) (ns : List Nat) : (r.setPen k ns).fmtWord = r.fmtWord := rfl
@[simp] theorem Results.setPen_verWord (k : Nat) (ns : List Nat) : (r.setPen k ns).verWord = r.verWord := rfl
@[simp] theorem Results.setPen_cwLen (k : Nat) (ns : List Nat) : (r.setPen k ns).cwLen = r.cwLen := rfl
@[simp] theorem Results.setPen_mxVersion (k : Nat) (ns : List Nat) : (r.setPen k ns).mxVersion = r.mxVersion := rfl
@[simp] theorem Results.setPen_penRule (k : Nat) (ns : List Nat) : (r.setPen k ns).penRule = r.penRule.setIfInBounds k (penRuleWords ns) := rfl
@[simp] theorem Results.setPen_penTotal (k : Nat) (ns : List Nat) : (r.setPen k ns).penTotal = r.penTotal.setIfInBounds k (penTotalWord ns) := rfl

/-! ### Results.setSearch -/

@[simp] theorem Results.setSearch_synz (ps : List (List Nat)) : (r.setSearch ps).synz = r.synz := rfl
@[simp] theorem Results.setSearch_eccDone (ps : List (List Nat)) : (r.setSearch ps).eccDone = r.eccDone := rfl
@[simp] theorem Results.setSearch_ilvDone (ps : List (List Nat)) : (r.setSearch ps).ilvDone = r.ilvDone := rfl
@[simp] theorem Results.setSearch_funcDone (ps : List (List Nat)) : (r.setSearch ps).funcDone = r.funcDone := rfl
@[simp] theorem Results.setSearch_placed (ps : List (List Nat)) : (r.setSearch ps).placed = r.placed := rfl
@[simp] theorem Results.setSearch_searched (ps : List (List Nat)) : (r.setSearch ps).searched = r.searched := rfl
@[simp] theorem Results.setSearch_masked (ps : List (List Nat)) : (r.setSearch ps).masked = r.masked := rfl
@[simp] theorem Results.setSearch_fmtDone (ps : List (List Nat)) : (r.setSearch ps).fmtDone = r.fmtDone := rfl
@[simp] theorem Results.setSearch_verDone (ps : List (List Nat)) : (r.setSearch ps).verDone = r.verDone := rfl
@[simp] theorem Results.setSearch_gfRes (ps : List (List Nat)) : (r.setSearch ps).gfRes = r.gfRes := rfl
@[simp] theorem Results.setSearch_genDeg (ps : List (List Nat)) : (r.setSearch ps).genDeg = r.genDeg := rfl
@[simp] theorem Results.setSearch_gen (ps : List (List Nat)) : (r.setSearch ps).gen = r.gen := rfl
@[simp] theorem Results.setSearch_synd (ps : List (List Nat)) : (r.setSearch ps).synd = r.synd := rfl
@[simp] theorem Results.setSearch_chosenMask (ps : List (List Nat)) : (r.setSearch ps).chosenMask = BitVec.ofNat 3 (bestMask ps) := rfl
@[simp] theorem Results.setSearch_chosenValid (ps : List (List Nat)) : (r.setSearch ps).chosenValid = true := rfl
@[simp] theorem Results.setSearch_fmtWord (ps : List (List Nat)) : (r.setSearch ps).fmtWord = r.fmtWord := rfl
@[simp] theorem Results.setSearch_verWord (ps : List (List Nat)) : (r.setSearch ps).verWord = r.verWord := rfl
@[simp] theorem Results.setSearch_cwLen (ps : List (List Nat)) : (r.setSearch ps).cwLen = r.cwLen := rfl
@[simp] theorem Results.setSearch_mxVersion (ps : List (List Nat)) : (r.setSearch ps).mxVersion = r.mxVersion := rfl
@[simp] theorem Results.setSearch_penRule (ps : List (List Nat)) : (r.setSearch ps).penRule = Vector.ofFn fun k => penRuleWords (ps.getD k []) := rfl
@[simp] theorem Results.setSearch_penTotal (ps : List (List Nat)) : (r.setSearch ps).penTotal = Vector.ofFn fun k => penTotalWord (ps.getD k []) := rfl

/-! ### Results.flagEcc -/

@[simp] theorem Results.flagEcc_synz : r.flagEcc.synz = r.synz := rfl
@[simp] theorem Results.flagEcc_eccDone : r.flagEcc.eccDone = true := rfl
@[simp] theorem Results.flagEcc_ilvDone : r.flagEcc.ilvDone = false := rfl
@[simp] theorem Results.flagEcc_funcDone : r.flagEcc.funcDone = r.funcDone := rfl
@[simp] theorem Results.flagEcc_placed : r.flagEcc.placed = r.placed := rfl
@[simp] theorem Results.flagEcc_searched : r.flagEcc.searched = r.searched := rfl
@[simp] theorem Results.flagEcc_masked : r.flagEcc.masked = r.masked := rfl
@[simp] theorem Results.flagEcc_fmtDone : r.flagEcc.fmtDone = r.fmtDone := rfl
@[simp] theorem Results.flagEcc_verDone : r.flagEcc.verDone = r.verDone := rfl
@[simp] theorem Results.flagEcc_gfRes : r.flagEcc.gfRes = r.gfRes := rfl
@[simp] theorem Results.flagEcc_genDeg : r.flagEcc.genDeg = r.genDeg := rfl
@[simp] theorem Results.flagEcc_gen : r.flagEcc.gen = r.gen := rfl
@[simp] theorem Results.flagEcc_synd : r.flagEcc.synd = r.synd := rfl
@[simp] theorem Results.flagEcc_chosenMask : r.flagEcc.chosenMask = r.chosenMask := rfl
@[simp] theorem Results.flagEcc_chosenValid : r.flagEcc.chosenValid = r.chosenValid := rfl
@[simp] theorem Results.flagEcc_fmtWord : r.flagEcc.fmtWord = r.fmtWord := rfl
@[simp] theorem Results.flagEcc_verWord : r.flagEcc.verWord = r.verWord := rfl
@[simp] theorem Results.flagEcc_cwLen : r.flagEcc.cwLen = r.cwLen := rfl
@[simp] theorem Results.flagEcc_mxVersion : r.flagEcc.mxVersion = r.mxVersion := rfl
@[simp] theorem Results.flagEcc_penRule : r.flagEcc.penRule = r.penRule := rfl
@[simp] theorem Results.flagEcc_penTotal : r.flagEcc.penTotal = r.penTotal := rfl

/-! ### Results.flagIlv -/

@[simp] theorem Results.flagIlv_synz : r.flagIlv.synz = r.synz := rfl
@[simp] theorem Results.flagIlv_eccDone : r.flagIlv.eccDone = r.eccDone := rfl
@[simp] theorem Results.flagIlv_ilvDone : r.flagIlv.ilvDone = true := rfl
@[simp] theorem Results.flagIlv_funcDone : r.flagIlv.funcDone = r.funcDone := rfl
@[simp] theorem Results.flagIlv_placed : r.flagIlv.placed = r.placed := rfl
@[simp] theorem Results.flagIlv_searched : r.flagIlv.searched = r.searched := rfl
@[simp] theorem Results.flagIlv_masked : r.flagIlv.masked = r.masked := rfl
@[simp] theorem Results.flagIlv_fmtDone : r.flagIlv.fmtDone = r.fmtDone := rfl
@[simp] theorem Results.flagIlv_verDone : r.flagIlv.verDone = r.verDone := rfl
@[simp] theorem Results.flagIlv_gfRes : r.flagIlv.gfRes = r.gfRes := rfl
@[simp] theorem Results.flagIlv_genDeg : r.flagIlv.genDeg = r.genDeg := rfl
@[simp] theorem Results.flagIlv_gen : r.flagIlv.gen = r.gen := rfl
@[simp] theorem Results.flagIlv_synd : r.flagIlv.synd = r.synd := rfl
@[simp] theorem Results.flagIlv_chosenMask : r.flagIlv.chosenMask = r.chosenMask := rfl
@[simp] theorem Results.flagIlv_chosenValid : r.flagIlv.chosenValid = r.chosenValid := rfl
@[simp] theorem Results.flagIlv_fmtWord : r.flagIlv.fmtWord = r.fmtWord := rfl
@[simp] theorem Results.flagIlv_verWord : r.flagIlv.verWord = r.verWord := rfl
@[simp] theorem Results.flagIlv_cwLen : r.flagIlv.cwLen = r.cwLen := rfl
@[simp] theorem Results.flagIlv_mxVersion : r.flagIlv.mxVersion = r.mxVersion := rfl
@[simp] theorem Results.flagIlv_penRule : r.flagIlv.penRule = r.penRule := rfl
@[simp] theorem Results.flagIlv_penTotal : r.flagIlv.penTotal = r.penTotal := rfl

/-! ### Results.flagFunc -/

@[simp] theorem Results.flagFunc_synz : r.flagFunc.synz = r.synz := rfl
@[simp] theorem Results.flagFunc_eccDone : r.flagFunc.eccDone = r.eccDone := rfl
@[simp] theorem Results.flagFunc_ilvDone : r.flagFunc.ilvDone = r.ilvDone := rfl
@[simp] theorem Results.flagFunc_funcDone : r.flagFunc.funcDone = true := rfl
@[simp] theorem Results.flagFunc_placed : r.flagFunc.placed = false := rfl
@[simp] theorem Results.flagFunc_searched : r.flagFunc.searched = false := rfl
@[simp] theorem Results.flagFunc_masked : r.flagFunc.masked = false := rfl
@[simp] theorem Results.flagFunc_fmtDone : r.flagFunc.fmtDone = false := rfl
@[simp] theorem Results.flagFunc_verDone : r.flagFunc.verDone = false := rfl
@[simp] theorem Results.flagFunc_gfRes : r.flagFunc.gfRes = r.gfRes := rfl
@[simp] theorem Results.flagFunc_genDeg : r.flagFunc.genDeg = r.genDeg := rfl
@[simp] theorem Results.flagFunc_gen : r.flagFunc.gen = r.gen := rfl
@[simp] theorem Results.flagFunc_synd : r.flagFunc.synd = r.synd := rfl
@[simp] theorem Results.flagFunc_chosenMask : r.flagFunc.chosenMask = r.chosenMask := rfl
@[simp] theorem Results.flagFunc_chosenValid : r.flagFunc.chosenValid = r.chosenValid := rfl
@[simp] theorem Results.flagFunc_fmtWord : r.flagFunc.fmtWord = r.fmtWord := rfl
@[simp] theorem Results.flagFunc_verWord : r.flagFunc.verWord = r.verWord := rfl
@[simp] theorem Results.flagFunc_cwLen : r.flagFunc.cwLen = r.cwLen := rfl
@[simp] theorem Results.flagFunc_mxVersion : r.flagFunc.mxVersion = r.mxVersion := rfl
@[simp] theorem Results.flagFunc_penRule : r.flagFunc.penRule = r.penRule := rfl
@[simp] theorem Results.flagFunc_penTotal : r.flagFunc.penTotal = r.penTotal := rfl

/-! ### Results.flagPlaced -/

@[simp] theorem Results.flagPlaced_synz : r.flagPlaced.synz = r.synz := rfl
@[simp] theorem Results.flagPlaced_eccDone : r.flagPlaced.eccDone = r.eccDone := rfl
@[simp] theorem Results.flagPlaced_ilvDone : r.flagPlaced.ilvDone = r.ilvDone := rfl
@[simp] theorem Results.flagPlaced_funcDone : r.flagPlaced.funcDone = r.funcDone := rfl
@[simp] theorem Results.flagPlaced_placed : r.flagPlaced.placed = true := rfl
@[simp] theorem Results.flagPlaced_searched : r.flagPlaced.searched = r.searched := rfl
@[simp] theorem Results.flagPlaced_masked : r.flagPlaced.masked = r.masked := rfl
@[simp] theorem Results.flagPlaced_fmtDone : r.flagPlaced.fmtDone = r.fmtDone := rfl
@[simp] theorem Results.flagPlaced_verDone : r.flagPlaced.verDone = r.verDone := rfl
@[simp] theorem Results.flagPlaced_gfRes : r.flagPlaced.gfRes = r.gfRes := rfl
@[simp] theorem Results.flagPlaced_genDeg : r.flagPlaced.genDeg = r.genDeg := rfl
@[simp] theorem Results.flagPlaced_gen : r.flagPlaced.gen = r.gen := rfl
@[simp] theorem Results.flagPlaced_synd : r.flagPlaced.synd = r.synd := rfl
@[simp] theorem Results.flagPlaced_chosenMask : r.flagPlaced.chosenMask = r.chosenMask := rfl
@[simp] theorem Results.flagPlaced_chosenValid : r.flagPlaced.chosenValid = r.chosenValid := rfl
@[simp] theorem Results.flagPlaced_fmtWord : r.flagPlaced.fmtWord = r.fmtWord := rfl
@[simp] theorem Results.flagPlaced_verWord : r.flagPlaced.verWord = r.verWord := rfl
@[simp] theorem Results.flagPlaced_cwLen : r.flagPlaced.cwLen = r.cwLen := rfl
@[simp] theorem Results.flagPlaced_mxVersion : r.flagPlaced.mxVersion = r.mxVersion := rfl
@[simp] theorem Results.flagPlaced_penRule : r.flagPlaced.penRule = r.penRule := rfl
@[simp] theorem Results.flagPlaced_penTotal : r.flagPlaced.penTotal = r.penTotal := rfl

/-! ### Results.flagSearched -/

@[simp] theorem Results.flagSearched_synz : r.flagSearched.synz = r.synz := rfl
@[simp] theorem Results.flagSearched_eccDone : r.flagSearched.eccDone = r.eccDone := rfl
@[simp] theorem Results.flagSearched_ilvDone : r.flagSearched.ilvDone = r.ilvDone := rfl
@[simp] theorem Results.flagSearched_funcDone : r.flagSearched.funcDone = r.funcDone := rfl
@[simp] theorem Results.flagSearched_placed : r.flagSearched.placed = r.placed := rfl
@[simp] theorem Results.flagSearched_searched : r.flagSearched.searched = true := rfl
@[simp] theorem Results.flagSearched_masked : r.flagSearched.masked = r.masked := rfl
@[simp] theorem Results.flagSearched_fmtDone : r.flagSearched.fmtDone = r.fmtDone := rfl
@[simp] theorem Results.flagSearched_verDone : r.flagSearched.verDone = r.verDone := rfl
@[simp] theorem Results.flagSearched_gfRes : r.flagSearched.gfRes = r.gfRes := rfl
@[simp] theorem Results.flagSearched_genDeg : r.flagSearched.genDeg = r.genDeg := rfl
@[simp] theorem Results.flagSearched_gen : r.flagSearched.gen = r.gen := rfl
@[simp] theorem Results.flagSearched_synd : r.flagSearched.synd = r.synd := rfl
@[simp] theorem Results.flagSearched_chosenMask : r.flagSearched.chosenMask = r.chosenMask := rfl
@[simp] theorem Results.flagSearched_chosenValid : r.flagSearched.chosenValid = r.chosenValid := rfl
@[simp] theorem Results.flagSearched_fmtWord : r.flagSearched.fmtWord = r.fmtWord := rfl
@[simp] theorem Results.flagSearched_verWord : r.flagSearched.verWord = r.verWord := rfl
@[simp] theorem Results.flagSearched_cwLen : r.flagSearched.cwLen = r.cwLen := rfl
@[simp] theorem Results.flagSearched_mxVersion : r.flagSearched.mxVersion = r.mxVersion := rfl
@[simp] theorem Results.flagSearched_penRule : r.flagSearched.penRule = r.penRule := rfl
@[simp] theorem Results.flagSearched_penTotal : r.flagSearched.penTotal = r.penTotal := rfl

/-! ### Results.flagMasked -/

@[simp] theorem Results.flagMasked_synz : r.flagMasked.synz = r.synz := rfl
@[simp] theorem Results.flagMasked_eccDone : r.flagMasked.eccDone = r.eccDone := rfl
@[simp] theorem Results.flagMasked_ilvDone : r.flagMasked.ilvDone = r.ilvDone := rfl
@[simp] theorem Results.flagMasked_funcDone : r.flagMasked.funcDone = r.funcDone := rfl
@[simp] theorem Results.flagMasked_placed : r.flagMasked.placed = r.placed := rfl
@[simp] theorem Results.flagMasked_searched : r.flagMasked.searched = r.searched := rfl
@[simp] theorem Results.flagMasked_masked : r.flagMasked.masked = true := rfl
@[simp] theorem Results.flagMasked_fmtDone : r.flagMasked.fmtDone = r.fmtDone := rfl
@[simp] theorem Results.flagMasked_verDone : r.flagMasked.verDone = r.verDone := rfl
@[simp] theorem Results.flagMasked_gfRes : r.flagMasked.gfRes = r.gfRes := rfl
@[simp] theorem Results.flagMasked_genDeg : r.flagMasked.genDeg = r.genDeg := rfl
@[simp] theorem Results.flagMasked_gen : r.flagMasked.gen = r.gen := rfl
@[simp] theorem Results.flagMasked_synd : r.flagMasked.synd = r.synd := rfl
@[simp] theorem Results.flagMasked_chosenMask : r.flagMasked.chosenMask = r.chosenMask := rfl
@[simp] theorem Results.flagMasked_chosenValid : r.flagMasked.chosenValid = r.chosenValid := rfl
@[simp] theorem Results.flagMasked_fmtWord : r.flagMasked.fmtWord = r.fmtWord := rfl
@[simp] theorem Results.flagMasked_verWord : r.flagMasked.verWord = r.verWord := rfl
@[simp] theorem Results.flagMasked_cwLen : r.flagMasked.cwLen = r.cwLen := rfl
@[simp] theorem Results.flagMasked_mxVersion : r.flagMasked.mxVersion = r.mxVersion := rfl
@[simp] theorem Results.flagMasked_penRule : r.flagMasked.penRule = r.penRule := rfl
@[simp] theorem Results.flagMasked_penTotal : r.flagMasked.penTotal = r.penTotal := rfl

/-! ### Results.flagFmt -/

@[simp] theorem Results.flagFmt_synz : r.flagFmt.synz = r.synz := rfl
@[simp] theorem Results.flagFmt_eccDone : r.flagFmt.eccDone = r.eccDone := rfl
@[simp] theorem Results.flagFmt_ilvDone : r.flagFmt.ilvDone = r.ilvDone := rfl
@[simp] theorem Results.flagFmt_funcDone : r.flagFmt.funcDone = r.funcDone := rfl
@[simp] theorem Results.flagFmt_placed : r.flagFmt.placed = r.placed := rfl
@[simp] theorem Results.flagFmt_searched : r.flagFmt.searched = r.searched := rfl
@[simp] theorem Results.flagFmt_masked : r.flagFmt.masked = r.masked := rfl
@[simp] theorem Results.flagFmt_fmtDone : r.flagFmt.fmtDone = true := rfl
@[simp] theorem Results.flagFmt_verDone : r.flagFmt.verDone = r.verDone := rfl
@[simp] theorem Results.flagFmt_gfRes : r.flagFmt.gfRes = r.gfRes := rfl
@[simp] theorem Results.flagFmt_genDeg : r.flagFmt.genDeg = r.genDeg := rfl
@[simp] theorem Results.flagFmt_gen : r.flagFmt.gen = r.gen := rfl
@[simp] theorem Results.flagFmt_synd : r.flagFmt.synd = r.synd := rfl
@[simp] theorem Results.flagFmt_chosenMask : r.flagFmt.chosenMask = r.chosenMask := rfl
@[simp] theorem Results.flagFmt_chosenValid : r.flagFmt.chosenValid = r.chosenValid := rfl
@[simp] theorem Results.flagFmt_fmtWord : r.flagFmt.fmtWord = r.fmtWord := rfl
@[simp] theorem Results.flagFmt_verWord : r.flagFmt.verWord = r.verWord := rfl
@[simp] theorem Results.flagFmt_cwLen : r.flagFmt.cwLen = r.cwLen := rfl
@[simp] theorem Results.flagFmt_mxVersion : r.flagFmt.mxVersion = r.mxVersion := rfl
@[simp] theorem Results.flagFmt_penRule : r.flagFmt.penRule = r.penRule := rfl
@[simp] theorem Results.flagFmt_penTotal : r.flagFmt.penTotal = r.penTotal := rfl

/-! ### Results.flagVer -/

@[simp] theorem Results.flagVer_synz : r.flagVer.synz = r.synz := rfl
@[simp] theorem Results.flagVer_eccDone : r.flagVer.eccDone = r.eccDone := rfl
@[simp] theorem Results.flagVer_ilvDone : r.flagVer.ilvDone = r.ilvDone := rfl
@[simp] theorem Results.flagVer_funcDone : r.flagVer.funcDone = r.funcDone := rfl
@[simp] theorem Results.flagVer_placed : r.flagVer.placed = r.placed := rfl
@[simp] theorem Results.flagVer_searched : r.flagVer.searched = r.searched := rfl
@[simp] theorem Results.flagVer_masked : r.flagVer.masked = r.masked := rfl
@[simp] theorem Results.flagVer_fmtDone : r.flagVer.fmtDone = r.fmtDone := rfl
@[simp] theorem Results.flagVer_verDone : r.flagVer.verDone = true := rfl
@[simp] theorem Results.flagVer_gfRes : r.flagVer.gfRes = r.gfRes := rfl
@[simp] theorem Results.flagVer_genDeg : r.flagVer.genDeg = r.genDeg := rfl
@[simp] theorem Results.flagVer_gen : r.flagVer.gen = r.gen := rfl
@[simp] theorem Results.flagVer_synd : r.flagVer.synd = r.synd := rfl
@[simp] theorem Results.flagVer_chosenMask : r.flagVer.chosenMask = r.chosenMask := rfl
@[simp] theorem Results.flagVer_chosenValid : r.flagVer.chosenValid = r.chosenValid := rfl
@[simp] theorem Results.flagVer_fmtWord : r.flagVer.fmtWord = r.fmtWord := rfl
@[simp] theorem Results.flagVer_verWord : r.flagVer.verWord = r.verWord := rfl
@[simp] theorem Results.flagVer_cwLen : r.flagVer.cwLen = r.cwLen := rfl
@[simp] theorem Results.flagVer_mxVersion : r.flagVer.mxVersion = r.mxVersion := rfl
@[simp] theorem Results.flagVer_penRule : r.flagVer.penRule = r.penRule := rfl
@[simp] theorem Results.flagVer_penTotal : r.flagVer.penTotal = r.penTotal := rfl

end ResultUpdates

/-- An operand is read from the latch, which no command's writes touch. -/
@[simp] theorem State.operands_setRes (s : State) (r : Results) : (s.setRes r).operands = s.operands := rfl

@[simp] theorem State.operands_commit (s : State) (r : Results) (m : Memory) :
    (s.commit r m).operands = s.operands := rfl

/-- While a command is in flight its operands are the latched ones (R16, R117). -/
@[simp] theorem State.operands_of_latch (s : State) (o : Latch) (h : s.latch = some o) : s.operands = o := by
  simp [State.operands, h]

@[simp] theorem State.busy_complete (s : State) (op code : Byte) : (s.complete op code).busy = false := rfl

@[simp] theorem State.busy_accept (s : State) (w : Word) : (s.accept w).busy = true := rfl

/-- Writing the registers and memory a state already holds changes nothing. -/
@[simp] theorem State.commit_self (s : State) : s.commit s.res s.mem = s := rfl

@[simp] theorem State.setRes_self (s : State) : s.setRes s.res = s := rfl

@[simp] theorem State.commit_setRes (s : State) (r r' : Results) (m : Memory) :
    (s.setRes r').commit r m = s.commit r m := rfl

@[simp] theorem State.commit_commit (s : State) (r r' : Results) (m m' : Memory) :
    (s.commit r' m').commit r m = s.commit r m := rfl

@[simp] theorem State.setRes_commit (s : State) (r r' : Results) (m : Memory) :
    (s.commit r' m).setRes r = s.commit r m := rfl

@[simp] theorem State.setRes_setRes (s : State) (r r' : Results) : (s.setRes r').setRes r = s.setRes r := rfl

/-- A register-only write is a commit that keeps the memory. -/
theorem State.setRes_eq_commit (s : State) (r : Results) : s.setRes r = s.commit r s.mem := rfl

end Sys2Proof.Machine
end

