-- ==== Sys2Proof/Laws/Commands.lean ====
section
/-! SUPPORT. What the shared steps of a command can come to (R118 to R120), one inversion lemma each, and for every
command the exact shape of its successful outcome. -/

namespace Sys2Proof.Machine

open Sys2Proof

/-! ### The shared steps -/

/-- The engine's step answers a next state in exactly two ways: success with every write, or an error with none
(R118, R119). -/
theorem conclude_eq_next {op : Byte} {s t : State} {r : CmdOutcome} :
    conclude op s r = .next t ↔
      (∃ s', r = .ok s' ∧ t = s'.complete op 0x00) ∨ (∃ e, r = .error e ∧ t = s.complete op (errNumber e)) := by
  cases r <;> simp [conclude, eq_comm]

theorem conclude_eq_fault {op : Byte} {s : State} {r : CmdOutcome} {f : Fault} :
    conclude op s r = .fault f ↔ r = .fault f := by
  cases r <;> simp [conclude]

/-- No command is ever refused. -/
theorem conclude_ne_refused (op : Byte) (s : State) (r : CmdOutcome) (x : Refusal) : conclude op s r ≠ .refused x := by
  cases r <;> simp [conclude]

@[simp] theorem conclude_ok (op : Byte) (s s' : State) : conclude op s (.ok s') = .next (s'.complete op 0x00) := rfl

@[simp] theorem conclude_error (op : Byte) (s : State) (e : ErrCode) :
    conclude op s (.error e) = .next (s.complete op (errNumber e)) := rfl

@[simp] theorem conclude_fault (op : Byte) (s : State) (f : Fault) : conclude op s (.fault f) = .fault f := rfl

theorem conclude_of_ok {op : Byte} {s s' : State} {r : CmdOutcome} (h : r = .ok s') :
    conclude op s r = .next (s'.complete op 0x00) := by rw [h]; rfl

theorem conclude_of_error {op : Byte} {s : State} {r : CmdOutcome} {e : ErrCode} (h : r = .error e) :
    conclude op s r = .next (s.complete op (errNumber e)) := by rw [h]; rfl

/-- No error code is 0x00, the code of success (R280). -/
@[simp] theorem errNumber_ne_zero (e : ErrCode) : errNumber e ≠ 0x00 := by cases e <;> decide

@[simp] theorem checked_none (r : CmdOutcome) : checked none r = r := rfl

@[simp] theorem checked_some (e : ErrCode) (r : CmdOutcome) : checked (some e) r = .error e := rfl

@[simp] theorem checked_eq_ok {c : Option ErrCode} {r : CmdOutcome} {s : State} :
    checked c r = .ok s ↔ c = none ∧ r = .ok s := by
  cases c <;> simp [checked]

@[simp] theorem checked_eq_fault {c : Option ErrCode} {r : CmdOutcome} {f : Fault} :
    checked c r = .fault f ↔ c = none ∧ r = .fault f := by
  cases c <;> simp [checked]

theorem checked_eq_error {c : Option ErrCode} {r : CmdOutcome} {e : ErrCode} :
    checked c r = .error e ↔ c = some e ∨ (c = none ∧ r = .error e) := by
  cases c <;> simp [checked]

@[simp] theorem andThen_ok (s : State) (k : State → CmdOutcome) : (CmdOutcome.ok s).andThen k = k s := rfl

@[simp] theorem andThen_error (e : ErrCode) (k : State → CmdOutcome) : (CmdOutcome.error e).andThen k = .error e := rfl

@[simp] theorem andThen_fault (f : Fault) (k : State → CmdOutcome) : (CmdOutcome.fault f).andThen k = .fault f := rfl

@[simp] theorem andThen_eq_ok {r : CmdOutcome} {k : State → CmdOutcome} {t : State} :
    r.andThen k = .ok t ↔ ∃ s, r = .ok s ∧ k s = .ok t := by
  cases r <;> simp [CmdOutcome.andThen]

@[simp] theorem withBytes_eq_ok {m : Memory} {a n : Nat} {k : List Byte → CmdOutcome} {s : State} :
    withBytes m a n k = .ok s ↔ ∃ bs, m.readRange a n = some bs ∧ k bs = .ok s := by
  unfold withBytes
  cases h : m.readRange a n <;> simp

theorem withBytes_eq_fault {m : Memory} {a n : Nat} {k : List Byte → CmdOutcome} {f : Fault} :
    withBytes m a n k = .fault f ↔
      (m.readRange a n = none ∧ f = .uninitRead) ∨ (∃ bs, m.readRange a n = some bs ∧ k bs = .fault f) := by
  unfold withBytes
  cases h : m.readRange a n <;> simp [eq_comm]

theorem withBytes_eq_error {m : Memory} {a n : Nat} {k : List Byte → CmdOutcome} {e : ErrCode} :
    withBytes m a n k = .error e ↔ ∃ bs, m.readRange a n = some bs ∧ k bs = .error e := by
  unfold withBytes
  cases h : m.readRange a n <;> simp

/-- A range that can be read is handed on. -/
theorem withBytes_of_some {m : Memory} {a n : Nat} {bs : List Byte} (h : m.readRange a n = some bs)
    (k : List Byte → CmdOutcome) : withBytes m a n k = k bs := by
  simp [withBytes, h]

@[simp] theorem withSymbol_eq_ok {m : Memory} {sd : Nat} {k : Grid → CmdOutcome} {s : State} :
    withSymbol m sd k = .ok s ↔ ∃ g, readSymbol m sd = some g ∧ k g = .ok s := by
  unfold withSymbol
  cases h : readSymbol m sd <;> simp

theorem withSymbol_eq_fault {m : Memory} {sd : Nat} {k : Grid → CmdOutcome} {f : Fault} :
    withSymbol m sd k = .fault f ↔
      (readSymbol m sd = none ∧ f = .uninitRead) ∨ (∃ g, readSymbol m sd = some g ∧ k g = .fault f) := by
  unfold withSymbol
  cases h : readSymbol m sd <;> simp [eq_comm]

theorem withSymbol_eq_error {m : Memory} {sd : Nat} {k : Grid → CmdOutcome} {e : ErrCode} :
    withSymbol m sd k = .error e ↔ ∃ g, readSymbol m sd = some g ∧ k g = .error e := by
  unfold withSymbol
  cases h : readSymbol m sd <;> simp

/-- A symbol that can be read is handed on. -/
theorem withSymbol_of_some {m : Memory} {sd : Nat} {g : Grid} (h : readSymbol m sd = some g)
    (k : Grid → CmdOutcome) : withSymbol m sd k = k g := by
  simp [withSymbol, h]

/-! ### The checks -/

@[simp] theorem checkConfig_eq_none {o : Latch} : checkConfig o = none ↔ legalVersion o.v = true := by
  unfold checkConfig; split <;> simp_all

@[simp] theorem checkMask_eq_none {k : Nat} : checkMask k = none ↔ k ≤ 7 := by
  unfold checkMask; split <;> simp <;> omega

@[simp] theorem checkRanges_eq_none {s len d n : Nat} :
    checkRanges s len d n = none ↔ s + len ≤ 4096 ∧ d + n ≤ 4096 ∧ len + n ≤ 255 := by
  unfold checkRanges; split <;> simp <;> omega

@[simp] theorem checkDegree_eq_none {n : Nat} : checkDegree n = none ↔ 1 ≤ n ∧ n ≤ 30 := by
  unfold checkDegree; split <;> simp <;> omega

@[simp] theorem checkGenerator_eq_none {s : State} : checkGenerator s = none ↔ s.res.genDeg ≠ 0 := by
  unfold checkGenerator; split <;> simp_all

@[simp] theorem checkGfZero_eq_none {a : Byte} : checkGfZero a = none ↔ a ≠ 0 := by
  unfold checkGfZero; split <;> simp_all

@[simp] theorem checkDrawn_eq_none {o : Latch} {s : State} :
    checkDrawn o s = none ↔ s.res.funcDone = true ∧ s.res.mxVersion = o.version := by
  unfold checkDrawn; split <;> simp_all

@[simp] theorem checkUnplaced_eq_none {o : Latch} {s : State} :
    checkUnplaced o s = none ↔ s.res.placed = false ∧ s.res.funcDone = true ∧ s.res.mxVersion = o.version := by
  unfold checkUnplaced; split <;> simp_all

@[simp] theorem checkBchFmt_eq_none {k e : Nat} : checkBchFmt k e = none ↔ k ≤ 7 ∧ e ≤ 3 := by
  unfold checkBchFmt; split <;> simp <;> omega

@[simp] theorem checkBchVer_eq_none {v : Nat} : checkBchVer v = none ↔ 7 ≤ v ∧ v ≤ 40 := by
  unfold checkBchVer; split <;> simp <;> omega

@[simp] theorem firstError_eq_none {c d : Option ErrCode} : firstError c d = none ↔ c = none ∧ d = none := by
  cases c <;> simp [firstError]

theorem legalVersion_iff {v : Nat} : legalVersion v = true ↔ 1 ≤ v ∧ v ≤ 40 := by
  simp [legalVersion]

/-! ### What a successful command comes to -/

/-- The outcome, if a success, writes result registers and memory of `s` and nothing else. -/
def Commits (s : State) (r : CmdOutcome) : Prop := ∀ t, r = .ok t → ∃ res m, t = s.commit res m

theorem doRsGen_eq_ok {n : Byte} {s t : State} :
    doRsGen n s = .ok t ↔ (1 ≤ n.toNat ∧ n.toNat ≤ 30) ∧ t = s.setRes (s.res.setGen n.toNat) := by
  simp [doRsGen, immNat, @eq_comm _ _ t]

theorem doRsDiv_eq_ok {o : Latch} {s t : State} :
    doRsDiv o s = .ok t ↔
      (s.res.genDeg ≠ 0 ∧ o.a0.toNat + o.a1.toNat ≤ 4096 ∧ o.a2.toNat + s.res.genDeg.toNat ≤ 4096 ∧
        o.a1.toNat + s.res.genDeg.toNat ≤ 255) ∧
      ∃ data, s.mem.readRange (dcwBase + o.a0.toNat) o.a1.toNat = some data ∧
        t = s.commit s.res (s.mem.writeRange (eccBase + o.a2.toNat)
          (rsRemainder (divisorTail s.res.gen s.res.genDeg.toNat) data)) := by
  simp [doRsDiv, checkRsDiv, @eq_comm _ _ t]

theorem doRsSynd_eq_ok {n : Byte} {o : Latch} {s t : State} :
    doRsSynd n o s = .ok t ↔
      ((1 ≤ n.toNat ∧ n.toNat ≤ 30) ∧ o.a0.toNat + o.a1.toNat ≤ 4096 ∧ o.a2.toNat + n.toNat ≤ 4096 ∧
        o.a1.toNat + n.toNat ≤ 255) ∧
      ∃ data, s.mem.readRange (dcwBase + o.a0.toNat) o.a1.toNat = some data ∧
        ∃ ecc, s.mem.readRange (eccBase + o.a2.toNat) n.toNat = some ecc ∧
          t = s.setRes (s.res.setSynd n.toNat (data ++ ecc)) := by
  simp [doRsSynd, checkRsSynd, immNat, @eq_comm _ _ t]

theorem doRsEncodeAll_eq_ok {o : Latch} {s t : State} :
    doRsEncodeAll o s = .ok t ↔ legalVersion o.v = true ∧
      ∃ data, s.mem.readRange dcwBase (dataCw o.v o.e) = some data ∧
        t = s.commit (s.res.setGen (eccPerBlk o.v o.e)).flagEcc (s.mem.writeRange eccBase (blockEcc o.v o.e data)) := by
  simp [doRsEncodeAll, @eq_comm _ _ t]

theorem doInterleave_eq_ok {o : Latch} {s t : State} :
    doInterleave o s = .ok t ↔ legalVersion o.v = true ∧
      ∃ data, s.mem.readRange dcwBase (dataCw o.v o.e) = some data ∧
        ∃ ecc, s.mem.readRange eccBase (numBlocks o.v o.e * eccPerBlk o.v o.e) = some ecc ∧
          t = s.commit (s.res.setCwLen (interleaved o.v o.e data ecc).length).flagIlv
            (s.mem.writeRange cwBase (interleaved o.v o.e data ecc)) := by
  simp [doInterleave, @eq_comm _ _ t]

theorem doMxFunc_eq_ok {o : Latch} {s t : State} :
    doMxFunc o s = .ok t ↔ legalVersion o.v = true ∧
      t = s.commit (s.res.setDrawn o.version).flagFunc (s.mem.writeRange matBase (drawnMatrix o.v)) := by
  simp [doMxFunc, @eq_comm _ _ t]

theorem doMxPlace_eq_ok {o : Latch} {s t : State} :
    doMxPlace o s = .ok t ↔ legalVersion o.v = true ∧
      (s.res.placed = false ∧ s.res.funcDone = true ∧ s.res.mxVersion = o.version) ∧
      ∃ g, readSymbol s.mem (side o.v) = some g ∧
        (zigzag (side o.v) g).length = 8 * totalCw o.v + remBits o.v ∧
        ∃ cw, s.mem.readRange cwBase (totalCw o.v) = some cw ∧
          t = s.commit s.res.flagPlaced
            (placeModules s.mem (side o.v) (placements (zigzag (side o.v) g) (placedBits o.v cw))) := by
  simp only [doMxPlace, checked_eq_ok, checkConfig_eq_none, checkUnplaced_eq_none, withSymbol_eq_ok]
  refine and_congr_right fun _ => and_congr_right fun _ => exists_congr fun g => and_congr_right fun _ => ?_
  split
  · next h => simp [h]
  · next h => rw [not_not] at h; simp [h, @eq_comm _ _ t]

theorem doMaskEval_eq_ok {k : Nat} {o : Latch} {s t : State} :
    doMaskEval k o s = .ok t ↔ legalVersion o.v = true ∧ k ≤ 7 ∧
      (s.res.funcDone = true ∧ s.res.mxVersion = o.version) ∧
      ∃ g, readSymbol s.mem (side o.v) = some g ∧
        t = s.setRes (s.res.setPen k (penalties s.params o.v o.e k g)) := by
  simp [doMaskEval, @eq_comm _ _ t]

theorem doMaskSearch_eq_ok {o : Latch} {s t : State} :
    doMaskSearch o s = .ok t ↔ legalVersion o.v = true ∧
      (s.res.funcDone = true ∧ s.res.mxVersion = o.version) ∧
      ∃ g, readSymbol s.mem (side o.v) = some g ∧
        t = s.setRes (s.res.setSearch (allPenalties s.params o.v o.e g)).flagSearched := by
  simp [doMaskSearch, @eq_comm _ _ t]

theorem doMaskApply_eq_ok {k : Nat} {o : Latch} {s t : State} :
    doMaskApply k o s = .ok t ↔ legalVersion o.v = true ∧ k ≤ 7 ∧
      (s.res.funcDone = true ∧ s.res.mxVersion = o.version) ∧
      (∃ g, readSymbol s.mem (side o.v) = some g) ∧
        t = s.commit s.res.flagMasked (maskModules s.mem (side o.v) k) := by
  simp [doMaskApply, @eq_comm _ _ t]

theorem doBchFmt_eq_ok {k e : Byte} {s t : State} :
    doBchFmt k e s = .ok t ↔ (k.toNat ≤ 7 ∧ e.toNat ≤ 3) ∧
      t = s.setRes (s.res.setFmtWord (formatWord (eccLevel (e.setWidth 2)) k.toNat)) := by
  simp [doBchFmt, immNat, @eq_comm _ _ t]

theorem doBchVer_eq_ok {v : Byte} {s t : State} :
    doBchVer v s = .ok t ↔ (7 ≤ v.toNat ∧ v.toNat ≤ 40) ∧
      t = s.setRes (s.res.setVerWord (versionWord s.params v.toNat)) := by
  simp [doBchVer, immNat, @eq_comm _ _ t]

theorem doFmtWrite_eq_ok {k : Nat} {o : Latch} {s t : State} :
    doFmtWrite k o s = .ok t ↔ legalVersion o.v = true ∧ k ≤ 7 ∧
      (s.res.funcDone = true ∧ s.res.mxVersion = o.version) ∧
      t = s.commit (s.res.setFmtWord (formatWord o.e k)).flagFmt
        (s.mem.writeEach (formatModules (side o.v) (formatWord o.e k))) := by
  simp [doFmtWrite, @eq_comm _ _ t]

/-- VER_WRITE writes the two copies from version 7 on, and no module below (R255). -/
theorem doVerWrite_eq_ok {o : Latch} {s t : State} :
    doVerWrite o s = .ok t ↔ legalVersion o.v = true ∧
      (s.res.funcDone = true ∧ s.res.mxVersion = o.version) ∧
      ((7 ≤ o.v ∧ t = s.commit (s.res.setVerWord (versionWord s.params o.v)).flagVer
          (s.mem.writeEach (versionModules (side o.v) (versionWord s.params o.v)))) ∨
       (o.v < 7 ∧ t = s.commit (s.res.setVerWord 0).flagVer s.mem)) := by
  simp only [doVerWrite, checked_eq_ok, checkConfig_eq_none, checkDrawn_eq_none]
  refine and_congr_right fun _ => and_congr_right fun _ => ?_
  split
  · next h => simp [h, show ¬ o.v < 7 by omega, @eq_comm _ _ t]
  · next h => simp [h, show o.v < 7 by omega, State.setRes_eq_commit, @eq_comm _ _ t]

/-- ENCODE's success is the success of its eight steps, in order (R270). -/
theorem doEncode_eq_ok {o : Latch} {s t : State} :
    doEncode o s = .ok t ↔ legalVersion o.v = true ∧
      ∃ s1, doRsEncodeAll o s = .ok s1 ∧ ∃ s2, doInterleave o s1 = .ok s2 ∧ ∃ s3, doMxFunc o s2 = .ok s3 ∧
      ∃ s4, doMxPlace o s3 = .ok s4 ∧ ∃ s5, doMaskSearch o s4 = .ok s5 ∧
      ∃ s6, doMaskApply s5.res.chosenMask.toNat o s5 = .ok s6 ∧
      ∃ s7, doFmtWrite s6.res.chosenMask.toNat o s6 = .ok s7 ∧ doVerWrite o s7 = .ok t := by
  simp [doEncode]

/-! ### No command writes anything but result registers and memory -/

theorem commits_setRes (s : State) (r : Results) : Commits s (.ok (s.setRes r)) := by
  rintro t ⟨⟩; exact ⟨r, s.mem, rfl⟩

theorem commits_commit (s : State) (r : Results) (m : Memory) : Commits s (.ok (s.commit r m)) := by
  rintro t ⟨⟩; exact ⟨r, m, rfl⟩

theorem commits_error (s : State) (e : ErrCode) : Commits s (.error e) := by rintro t ⟨⟩

theorem commits_fault (s : State) (f : Fault) : Commits s (.fault f) := by rintro t ⟨⟩

theorem Commits.checked {s : State} {c : Option ErrCode} {r : CmdOutcome} (h : Commits s r) :
    Commits s (checked c r) := by
  cases c
  · exact h
  · exact commits_error s _

theorem Commits.withBytes {s : State} {m : Memory} {a n : Nat} {k : List Byte → CmdOutcome}
    (h : ∀ bs, Commits s (k bs)) : Commits s (withBytes m a n k) := by
  unfold Machine.withBytes
  split
  · exact h _
  · exact commits_fault s _

theorem Commits.withSymbol {s : State} {m : Memory} {sd : Nat} {k : Grid → CmdOutcome}
    (h : ∀ g, Commits s (k g)) : Commits s (withSymbol m sd k) := by
  unfold Machine.withSymbol
  split
  · exact h _
  · exact commits_fault s _

theorem Commits.andThen {s : State} {r : CmdOutcome} {k : State → CmdOutcome} (h : Commits s r)
    (hk : ∀ s', Commits s' (k s')) : Commits s (r.andThen k) := by
  intro t ht
  obtain ⟨s', hs', ht⟩ := andThen_eq_ok.1 ht
  obtain ⟨r', m', rfl⟩ := h s' hs'
  obtain ⟨r'', m'', rfl⟩ := hk _ t ht
  exact ⟨r'', m'', rfl⟩

theorem doNop_commits (s : State) : Commits s (doNop s) := commits_commit s s.res s.mem

theorem doClear_commits (s : State) : Commits s (doClear s) := commits_setRes s _

theorem doGfMul_commits (a b : Byte) (s : State) : Commits s (doGfMul a b s) := commits_setRes s _

theorem doGfExp_commits (k : Byte) (s : State) : Commits s (doGfExp k s) := commits_setRes s _

theorem doGfLog_commits (a : Byte) (s : State) : Commits s (doGfLog a s) := (commits_setRes s _).checked

theorem doGfInv_commits (a : Byte) (s : State) : Commits s (doGfInv a s) := (commits_setRes s _).checked

theorem doRsGen_commits (n : Byte) (s : State) : Commits s (doRsGen n s) := (commits_setRes s _).checked

theorem doRsDiv_commits (o : Latch) (s : State) : Commits s (doRsDiv o s) :=
  (Commits.withBytes fun _ => commits_commit s _ _).checked

theorem doRsSynd_commits (n : Byte) (o : Latch) (s : State) : Commits s (doRsSynd n o s) :=
  (Commits.withBytes fun _ => Commits.withBytes fun _ => commits_setRes s _).checked

theorem doRsEncodeAll_commits (o : Latch) (s : State) : Commits s (doRsEncodeAll o s) :=
  (Commits.withBytes fun _ => commits_commit s _ _).checked

theorem doInterleave_commits (o : Latch) (s : State) : Commits s (doInterleave o s) :=
  (Commits.withBytes fun _ => Commits.withBytes fun _ => commits_commit s _ _).checked

theorem doMxFunc_commits (o : Latch) (s : State) : Commits s (doMxFunc o s) := (commits_commit s _ _).checked

theorem doMxPlace_commits (o : Latch) (s : State) : Commits s (doMxPlace o s) := by
  refine (Commits.checked (Commits.withSymbol fun g => ?_)).checked
  split
  · exact commits_error s _
  · exact Commits.withBytes fun _ => commits_commit s _ _

theorem doMaskEval_commits (k : Nat) (o : Latch) (s : State) : Commits s (doMaskEval k o s) :=
  (((Commits.withSymbol fun _ => commits_setRes s _).checked).checked).checked

theorem doMaskSearch_commits (o : Latch) (s : State) : Commits s (doMaskSearch o s) :=
  ((Commits.withSymbol fun _ => commits_setRes s _).checked).checked

theorem doMaskApply_commits (k : Nat) (o : Latch) (s : State) : Commits s (doMaskApply k o s) :=
  (((Commits.withSymbol fun _ => commits_commit s _ _).checked).checked).checked

theorem doBchFmt_commits (k e : Byte) (s : State) : Commits s (doBchFmt k e s) := (commits_setRes s _).checked

theorem doBchVer_commits (v : Byte) (s : State) : Commits s (doBchVer v s) := (commits_setRes s _).checked

theorem doFmtWrite_commits (k : Nat) (o : Latch) (s : State) : Commits s (doFmtWrite k o s) :=
  (((commits_commit s _ _).checked).checked).checked

theorem doVerWrite_commits (o : Latch) (s : State) : Commits s (doVerWrite o s) := by
  refine (Commits.checked ?_).checked
  split
  · exact commits_commit s _ _
  · exact commits_setRes s _

theorem doEncode_commits (o : Latch) (s : State) : Commits s (doEncode o s) :=
  ((doRsEncodeAll_commits o s).andThen fun _ => (doInterleave_commits o _).andThen fun _ =>
    (doMxFunc_commits o _).andThen fun _ => (doMxPlace_commits o _).andThen fun _ =>
    (doMaskSearch_commits o _).andThen fun _ => (doMaskApply_commits _ o _).andThen fun _ =>
    (doFmtWrite_commits _ o _).andThen fun _ => doVerWrite_commits o _).checked

/-- What each command comes to before its completion (R118): the meaning `exec` concludes. -/
def outcome (i : Instr) (s : State) : CmdOutcome :=
  match i with
  | .nop => doNop s
  | .clear => doClear s
  | .gfMul a b => doGfMul a b s
  | .gfExp k => doGfExp k s
  | .gfLog a => doGfLog a s
  | .gfInv a => doGfInv a s
  | .rsGen n => doRsGen n s
  | .rsDiv => doRsDiv s.operands s
  | .rsSynd n => doRsSynd n s.operands s
  | .rsEncodeAll => doRsEncodeAll s.operands s
  | .interleave => doInterleave s.operands s
  | .mxFunc => doMxFunc s.operands s
  | .mxPlace => doMxPlace s.operands s
  | .maskEval k => doMaskEval (immNat k) s.operands s
  | .maskSearch => doMaskSearch s.operands s
  | .maskApply k => doMaskApply (immNat k) s.operands s
  | .bchFmt k e => doBchFmt k e s
  | .bchVer v => doBchVer v s
  | .fmtWrite k => doFmtWrite (immNat k) s.operands s
  | .verWrite => doVerWrite s.operands s
  | .encode => doEncode s.operands s

theorem exec_eq_outcome (i : Instr) (s : State) : exec i s = conclude (opcode i) s (outcome i s) := by
  cases i <;> rfl

/-- A command completes in exactly two ways. -/
theorem exec_eq_next {i : Instr} {s t : State} :
    exec i s = .next t ↔ (∃ s', outcome i s = .ok s' ∧ t = s'.complete (opcode i) 0x00) ∨
      (∃ e, outcome i s = .error e ∧ t = s.complete (opcode i) (errNumber e)) := by
  rw [exec_eq_outcome, conclude_eq_next]

theorem operands_of_latch {s : State} {o : Latch} (h : s.latch = some o) : s.operands = o := by
  simp [State.operands, h]

/-- A command's success writes result registers and memory only (R62, R119). -/
theorem outcome_commits (i : Instr) (s : State) : Commits s (outcome i s) := by
  cases i with
  | nop => exact doNop_commits s
  | clear => exact doClear_commits s
  | gfMul a b => exact doGfMul_commits a b s
  | gfExp k => exact doGfExp_commits k s
  | gfLog a => exact doGfLog_commits a s
  | gfInv a => exact doGfInv_commits a s
  | rsGen n => exact doRsGen_commits n s
  | rsDiv => exact doRsDiv_commits _ s
  | rsSynd n => exact doRsSynd_commits n _ s
  | rsEncodeAll => exact doRsEncodeAll_commits _ s
  | interleave => exact doInterleave_commits _ s
  | mxFunc => exact doMxFunc_commits _ s
  | mxPlace => exact doMxPlace_commits _ s
  | maskEval k => exact doMaskEval_commits _ _ s
  | maskSearch => exact doMaskSearch_commits _ s
  | maskApply k => exact doMaskApply_commits _ _ s
  | bchFmt k e => exact doBchFmt_commits k e s
  | bchVer v => exact doBchVer_commits v s
  | fmtWrite k => exact doFmtWrite_commits _ _ s
  | verWrite => exact doVerWrite_commits _ s
  | encode => exact doEncode_commits _ s

/-- Everything a command's step can answer (R118, R119): its successful writes, which touch result registers and
memory only; or its completion record alone with an error code; or a model-only fault. -/
theorem exec_cases (i : Instr) (s : State) :
    (∃ r m, exec i s = .next ((s.commit r m).complete (opcode i) 0x00)) ∨
    (∃ e, exec i s = .next (s.complete (opcode i) (errNumber e))) ∨ (∃ f, exec i s = .fault f) := by
  rw [exec_eq_outcome]
  have hc := outcome_commits i s
  cases h : outcome i s with
  | ok t => obtain ⟨res, m, rfl⟩ := hc t h; exact .inl ⟨res, m, rfl⟩
  | error e => exact .inr (.inl ⟨e, rfl⟩)
  | fault f => exact .inr (.inr ⟨f, rfl⟩)

/-! ### The two agents -/

/-- The engine's turn (R118). -/
theorem engineStep_of_latch_none {s : State} (h : s.latch = none) : engineStep s = .next s := by
  simp [engineStep, h]

theorem engineStep_of_decoded {s : State} {o : Latch} {i : Instr} (h : s.latch = some o)
    (hd : decode o.word = .ok i) : engineStep s = exec i s := by
  simp [engineStep, h, hd]

theorem engineStep_of_illegal {s : State} {o : Latch} {e : DecodeError} (h : s.latch = some o)
    (hd : decode o.word = .error e) : engineStep s = .next (s.complete (opField o.word) 0x01) := by
  simp [engineStep, h, hd, execIllegal, errNumber]

/-- Everything the engine's turn can answer: nothing to do, a command's step, or ILLEGAL_CMD. -/
theorem engineStep_cases (s : State) :
    (s.latch = none ∧ engineStep s = .next s) ∨
    (∃ o i, s.latch = some o ∧ decode o.word = .ok i ∧ engineStep s = exec i s) ∨
    (∃ o, s.latch = some o ∧ engineStep s = .next (s.complete (opField o.word) 0x01)) := by
  cases h : s.latch with
  | none => exact .inl ⟨rfl, engineStep_of_latch_none h⟩
  | some o =>
    cases hd : decode o.word with
    | ok i => exact .inr (.inl ⟨o, i, rfl, hd, engineStep_of_decoded h hd⟩)
    | error e => exact .inr (.inr ⟨o, rfl, engineStep_of_illegal h hd⟩)

/-- A host access does one of five things: it faults, it reads a register, it writes one, it reads RAM bytes or it
writes RAM bytes (R80 to R88). -/
theorem hostAccess_cases (s : State) (a : Access) :
    (∃ f, hostAccess s a = .fault f) ∨
    (∃ c, accessTarget a = some (.csr c) ∧ a.op = .read ∧
      hostAccess s a = .next ((afterCsrRead s c).answer (.data (csrReadData s c)))) ∨
    (∃ c w, accessTarget a = some (.csr c) ∧ a.op = .write w ∧
      hostAccess s a = .next ((hostWriteCsr s c w).answer .written)) ∨
    (∃ r off n bs, accessTarget a = some (.ram r off n) ∧ s.busy = false ∧ s.mem.readRange off n = some bs ∧
      hostAccess s a = .next (s.answer (.data (BitVec.ofNat 32 (fromBytes (bs.map (ramByte r))))))) ∨
    (∃ r off n w, accessTarget a = some (.ram r off n) ∧ s.busy = false ∧ a.op = .write w ∧
      hostAccess s a =
        .next ((s.commit s.res (s.mem.writeRange off ((toBytes w n).map (ramByte r)))).answer .written)) := by
  unfold hostAccess
  split
  · exact .inl ⟨_, rfl⟩
  · next c hc =>
    cases h : a.op with
    | read => exact .inr (.inl ⟨c, hc, rfl, rfl⟩)
    | write w => exact .inr (.inr (.inl ⟨c, w, hc, rfl, rfl⟩))
  · next r off n hr =>
    unfold ramAccess
    split
    · exact .inl ⟨_, rfl⟩
    · next hb =>
      have hb : s.busy = false := by simpa using hb
      cases h : a.op with
      | read =>
        unfold ramRead
        cases hm : s.mem.readRange off n with
        | none => exact .inl ⟨_, rfl⟩
        | some bs => exact .inr (.inr (.inr (.inl ⟨r, off, n, bs, hr, hb, hm, rfl⟩)))
      | write w => exact .inr (.inr (.inr (.inr ⟨r, off, n, w, hr, hb, rfl, rfl⟩)))

/-- What one step of the machine is, by what its agenda holds first (R9). -/
theorem step_of_host {s : State} {a : Access} {es : List Event} (h : s.agenda = .host a :: es) :
    step s = hostAccess (s.withAgenda es) a := by
  simp [step, advance, handle, h]

theorem step_of_engine {s : State} {es : List Event} (h : s.agenda = .engine :: es) :
    step s = engineStep (s.withAgenda es) := by
  simp [step, advance, handle, h]

theorem step_of_hardReset {s : State} {es : List Event} (h : s.agenda = .hardReset :: es) :
    step s = .next (s.withAgenda es).hardReset := by
  simp [step, advance, handle, h]

theorem step_of_secondMaster {s : State} {a : Access} {es : List Event} (h : s.agenda = .secondMaster a :: es) :
    step s = .refused .secondBusMaster := by
  simp [step, advance, handle, h]

theorem step_of_nil {s : State} (h : s.agenda = []) : step s = engineStep s := by
  simp [step, advance, h]

end Sys2Proof.Machine
end

