-- ==== Sys2Proof/Laws/Bus.lean ====
section
/-! SUPPORT. Which accesses reach a register and which reach RAM (R81 to R84, R87), and what such an access answers. -/

namespace Sys2Proof.Machine

open Sys2Proof

theorem sizeBytes_pos (z : AccessSize) : 1 ≤ sizeBytes z ∧ sizeBytes z ≤ 4 := by cases z <;> decide

/-- The accesses that reach RAM: aligned, and both ends in one RAM region. -/
theorem accessTarget_eq_ram {a : Access} {r : Region} {off n : Nat} :
    accessTarget a = some (.ram r off n) ↔
      off = a.addr.toNat ∧ n = sizeBytes a.size ∧ off % n = 0 ∧ r ≠ .csr ∧ regionOf off = some r ∧
        regionOf (off + n - 1) = some r := by
  unfold accessTarget
  by_cases h : a.addr.toNat % sizeBytes a.size = 0
  · simp only [h, ne_eq, not_true_eq_false, if_false]
    rcases hr : regionOf a.addr.toNat with _ | r'
    · simp only [reduceCtorEq, false_iff]
      rintro ⟨rfl, rfl, -, -, h5, -⟩
      rw [hr] at h5; cases h5
    · cases r' <;> simp only
      case csr =>
        constructor
        · intro hh
          split at hh
          · cases hc : csrAt a.addr.toNat <;> simp [hc] at hh
          · cases hh
        · rintro ⟨rfl, rfl, -, h4, h5, -⟩
          rw [hr] at h5; cases h5; exact absurd rfl h4
      all_goals
        constructor
        · intro hh
          split at hh
          · next h6 => cases hh; exact ⟨rfl, rfl, h, by decide, hr, h6⟩
          · cases hh
        · rintro ⟨rfl, rfl, -, -, h5, h6⟩
          rw [hr] at h5; cases h5
          rw [if_pos h6]
  · simp only [h, ne_eq, not_false_eq_true, if_true, reduceCtorEq, false_iff]
    rintro ⟨rfl, rfl, h3, -⟩
    exact h h3

/-- The accesses that reach a register: aligned words at a listed offset. -/
theorem accessTarget_eq_csr {a : Access} {c : Csr} :
    accessTarget a = some (.csr c) ↔
      a.addr.toNat < 0x1000 ∧ sizeBytes a.size = 4 ∧ a.addr.toNat % 4 = 0 ∧ csrAt a.addr.toNat = some c := by
  unfold accessTarget
  by_cases h : a.addr.toNat % sizeBytes a.size = 0
  · simp only [h, ne_eq, not_true_eq_false, if_false]
    by_cases hl : a.addr.toNat < 0x1000
    · have hr : regionOf a.addr.toNat = some .csr := by simp [regionOf, hl]
      simp only [hr, hl, true_and]
      by_cases h4 : sizeBytes a.size = 4
      · simp [h4, h4 ▸ h]
      · simp [h4]
    · have hr : regionOf a.addr.toNat ≠ some .csr := by
        unfold regionOf
        rw [if_neg hl]
        repeat' split
        all_goals simp
      simp only [hl, false_and, iff_false]
      intro hh
      split at hh
      · cases hh
      · exact hr ‹_›
      · split at hh <;> cases hh
  · simp only [h, ne_eq, not_false_eq_true, if_true, reduceCtorEq, false_iff]
    rintro ⟨-, h2, h3, -⟩
    rw [h2] at h; exact h h3

/-- A RAM region is a run of offsets above the registers (R81). -/
theorem regionOf_ram {x : Nat} {r : Region} (h : regionOf x = some r) (hr : r ≠ .csr) :
    (r ≠ .matrix ∧ 0x1000 ≤ x ∧ x ≤ 0x3FFF) ∨ (r = .matrix ∧ 0x8000 ≤ x ∧ x ≤ 0xFA60) := by
  unfold regionOf at h
  repeat' split at h
  all_goals cases h
  · exact absurd rfl hr
  · exact .inl ⟨by decide, by omega, by omega⟩
  · exact .inl ⟨by decide, by omega, by omega⟩
  · exact .inl ⟨by decide, by omega, by omega⟩
  · exact .inr ⟨rfl, by omega, by omega⟩

/-- A word access at a listed offset reaches that register. -/
theorem accessTarget_word {off : Nat} {c : Csr} (op : AccessOp) (hl : off < 0x1000) (h4 : off % 4 = 0)
    (hc : csrAt off = some c) : accessTarget ⟨BitVec.ofNat 16 off, .word, op⟩ = some (.csr c) := by
  have ho : (BitVec.ofNat 16 off).toNat = off := by rw [BitVec.toNat_ofNat]; omega
  rw [accessTarget_eq_csr]
  exact ⟨by rw [ho]; exact hl, rfl, by rw [ho]; exact h4, by rw [ho]; exact hc⟩

/-- What a word access at a listed offset answers. -/
theorem hostAccess_word {s : State} {off : Nat} {c : Csr} (op : AccessOp) (hl : off < 0x1000) (h4 : off % 4 = 0)
    (hc : csrAt off = some c) : hostAccess s ⟨BitVec.ofNat 16 off, .word, op⟩ = csrAccess s c op := by
  simp [hostAccess, accessTarget_word op hl h4 hc]

end Sys2Proof.Machine
end

