-- ==== Sys2Proof/Laws/Tables.lean ====
section
/-! SUPPORT. Facts about the ROM tables (R46, R47, R49), read off all 40 versions and four levels once, and the
lengths of what the Reed-Solomon encoder and the interleaver produce. -/

namespace Sys2Proof.Machine

open Sys2Proof

/-- A fact checked at every row of the tables holds of every legal version. -/
theorem forall_legal {p : Nat → Prop} (h : ∀ v ∈ List.range' 1 40, p v) {v : Nat} (hv : legalVersion v = true) :
    p v := by
  refine h v ?_
  simp only [legalVersion, Bool.and_eq_true, decide_eq_true_eq] at hv
  simp only [List.mem_range'_1]; omega

/-- A fact checked at every entry of the block table holds of every legal version and level. -/
theorem forall_legal_ecc {p : Nat → EccLevel → Prop}
    (h : ∀ v ∈ List.range' 1 40, ∀ e ∈ [EccLevel.l, .m, .q, .h], p v e) {v : Nat}
    (hv : legalVersion v = true) (e : EccLevel) : p v e :=
  forall_legal (p := fun v => ∀ e, p v e) (fun v hv e => h v hv e (by cases e <;> simp)) hv e

/-- RAW(V), R47's formula for the number of free data modules. -/
def rawModules (v : Nat) : Nat :=
  (16 * v + 128) * v + 64
    - (if 2 ≤ v then (25 * (v / 7 + 2) - 10) * (v / 7 + 2) - 55 else 0) - (if 7 ≤ v then 36 else 0)

/-- The table agrees with R47's formula. -/
theorem rom_matches_raw {v : Nat} (hv : legalVersion v = true) :
    totalCw v = rawModules v / 8 ∧ remBits v = rawModules v % 8 :=
  forall_legal (p := fun v => totalCw v = rawModules v / 8 ∧ remBits v = rawModules v % 8) (by decide +kernel) hv

/-- Every symbol has at least one block (R46). -/
theorem numBlocks_pos {v : Nat} (hv : legalVersion v = true) (e : EccLevel) : 0 < numBlocks v e :=
  forall_legal_ecc (p := fun v e => 0 < numBlocks v e) (by decide +kernel) hv e

/-- Every block has 1 to 30 ECC codewords (R46). -/
theorem eccPerBlk_range {v : Nat} (hv : legalVersion v = true) (e : EccLevel) :
    1 ≤ eccPerBlk v e ∧ eccPerBlk v e ≤ 30 :=
  forall_legal_ecc (p := fun v e => 1 ≤ eccPerBlk v e ∧ eccPerBlk v e ≤ 30) (by decide +kernel) hv e

/-- Data and ECC codewords together are the symbol's codewords, and they fit their buffers (R46, R55). -/
theorem codewords_fit {v : Nat} (hv : legalVersion v = true) (e : EccLevel) :
    dataCw v e + numBlocks v e * eccPerBlk v e = totalCw v ∧ totalCw v ≤ 4095 :=
  forall_legal_ecc (p := fun v e => dataCw v e + numBlocks v e * eccPerBlk v e = totalCw v ∧ totalCw v ≤ 4095)
    (by decide +kernel) hv e

/-- The blocks together hold the data codewords (R46). -/
theorem sum_blockLengths {v : Nat} (hv : legalVersion v = true) (e : EccLevel) :
    (blockLengths v e).sum = dataCw v e ∧ (blockLengths v e).length = numBlocks v e :=
  forall_legal_ecc (p := fun v e => (blockLengths v e).sum = dataCw v e ∧ (blockLengths v e).length = numBlocks v e)
    (by decide +kernel) hv e

/-- No block is longer than the interleaver's data part (R180). -/
theorem blockLengths_le {v : Nat} (hv : legalVersion v = true) (e : EccLevel) :
    ∀ n ∈ blockLengths v e, n ≤ maxDataLen v e :=
  forall_legal_ecc (p := fun v e => ∀ n ∈ blockLengths v e, n ≤ maxDataLen v e) (by decide +kernel) hv e

/-- A symbol of a legal version fits the matrix RAM's rows (R56). -/
theorem side_le {v : Nat} (hv : legalVersion v = true) : 21 ≤ side v ∧ side v ≤ 177 := by
  simp only [legalVersion, Bool.and_eq_true, decide_eq_true_eq] at hv
  unfold side; omega

/-! ### Lengths in the Reed-Solomon encoder -/

@[simp] theorem length_mulRoot (g : List Byte) (e : Byte) : (mulRoot g e).length = g.length + 1 := by
  simp [mulRoot]

@[simp] theorem length_genPoly (n : Nat) : (genPoly n).length = n + 1 := by
  induction n with
  | zero => rfl
  | succ n ih => simp [genPoly, ih]

@[simp] theorem length_divisorTail (gen : Vector Byte 31) (n : Nat) : (divisorTail gen n).length = min n 31 := by
  simp [divisorTail]

theorem length_divStep {tail rem : List Byte} (h : rem.length = tail.length) (d : Byte) :
    (divStep tail rem d).length = tail.length := by
  simp only [divStep, List.length_zipWith, List.length_append, List.length_tail, List.length_cons, List.length_nil]
  omega

/-- The remainder has one byte per coefficient below the divisor's leading one (R156). -/
@[simp] theorem length_rsRemainder (tail data : List Byte) : (rsRemainder tail data).length = tail.length := by
  unfold rsRemainder
  generalize hr : List.replicate tail.length (0 : Byte) = rem
  have h : rem.length = tail.length := by rw [← hr]; simp
  clear hr
  induction data generalizing rem with
  | nil => exact h
  | cons d data ih => exact ih _ (length_divStep h d)

@[simp] theorem length_splitBlocks (ns : List Nat) (bs : List Byte) : (splitBlocks ns bs).length = ns.length := by
  induction ns generalizing bs with
  | nil => rfl
  | cons n ns ih => simp [splitBlocks, ih]

/-- Cutting exactly the sum of the lengths gives blocks of exactly those lengths. -/
theorem map_length_splitBlocks {ns : List Nat} {bs : List Byte} (h : bs.length = ns.sum) :
    (splitBlocks ns bs).map List.length = ns := by
  induction ns generalizing bs with
  | nil => rfl
  | cons n ns ih =>
    rw [List.sum_cons] at h
    simp only [splitBlocks, List.map_cons, List.length_take]
    rw [ih (by simp; omega), Nat.min_eq_left (by omega)]

theorem length_flatMap_const {α β : Type} {f : α → List β} {n : Nat} (h : ∀ x, (f x).length = n) (xs : List α) :
    (xs.flatMap f).length = xs.length * n := by
  induction xs with
  | nil => simp
  | cons x xs ih => simp [ih, h, Nat.succ_mul, Nat.add_comm]

/-- RS_ENCODE_ALL writes NUM_BLOCKS · ECC_PER_BLK bytes (R158). -/
theorem length_blockEcc {v : Nat} (hv : legalVersion v = true) (e : EccLevel) (data : List Byte) :
    (blockEcc v e data).length = numBlocks v e * eccPerBlk v e := by
  unfold blockEcc
  rw [length_flatMap_const (n := eccPerBlk v e) (by intro x; simp), length_splitBlocks, (sum_blockLengths hv e).2]

/-! ### The length of the interleaved stream -/

theorem length_takeTurns_succ (blocks : List (List Byte)) (n : Nat) :
    (takeTurns blocks (n + 1)).length = (takeTurns blocks n).length + (blocks.filterMap fun b => b[n]?).length := by
  simp [takeTurns, List.range_succ]

/-- Taking turns up to the longest block hands out every codeword of every block (R180). -/
theorem length_takeTurns (blocks : List (List Byte)) (n : Nat) :
    (takeTurns blocks n).length = (blocks.map fun b => min b.length n).sum := by
  induction n with
  | zero => simp [takeTurns]
  | succ n ih =>
    rw [length_takeTurns_succ, ih]
    clear ih
    induction blocks with
    | nil => rfl
    | cons b bs ih =>
      by_cases h : n < b.length
      · simp only [List.filterMap_cons, List.getElem?_eq_getElem h, List.map_cons, List.sum_cons, List.length_cons]
        omega
      · simp only [List.filterMap_cons, List.getElem?_eq_none (Nat.le_of_not_lt h), List.map_cons, List.sum_cons]
        omega

theorem sum_min_eq {ls : List Nat} {n : Nat} (h : ∀ l ∈ ls, l ≤ n) : (ls.map fun l => min l n).sum = ls.sum := by
  congr 1
  conv_rhs => rw [← List.map_id ls]
  exact List.map_congr_left fun l hl => Nat.min_eq_left (h l hl)

/-- INTERLEAVE writes TOTAL_CW(V) codewords (R180). -/
theorem length_interleaved {v : Nat} (hv : legalVersion v = true) (e : EccLevel) {data ecc : List Byte}
    (hd : data.length = dataCw v e) (he : ecc.length = numBlocks v e * eccPerBlk v e) :
    (interleaved v e data ecc).length = totalCw v := by
  have key : ∀ (ns : List Nat) (bs : List Byte) (n : Nat), bs.length = ns.sum → (∀ l ∈ ns, l ≤ n) →
      (takeTurns (splitBlocks ns bs) n).length = ns.sum := by
    intro ns bs n hb hn
    have e1 := map_length_splitBlocks hb
    rw [length_takeTurns, ← sum_min_eq hn]
    conv_rhs => rw [← e1]
    rw [List.map_map]
    rfl
  unfold interleaved
  rw [List.length_append, key _ _ _ (by rw [hd, (sum_blockLengths hv e).1]) (blockLengths_le hv e),
    key _ _ _ (by simp [he]) (by simp), (sum_blockLengths hv e).1, ← (codewords_fit hv e).1]
  simp

@[simp] theorem length_drawnMatrix (v : Nat) : (drawnMatrix v).length = matSize := by simp [drawnMatrix]

end Sys2Proof.Machine
end

