-- ==== Sys2Proof/Laws/Zigzag.lean ====
section
/-! SUPPORT. The zigzag path (R201): where it goes, that it visits no module twice, and how to count along it. -/

namespace Sys2Proof.Machine

open Sys2Proof

/-- The right columns of the pairs lie in 1 to `right`, and each is at least 2 below the one before. -/
theorem pairColumns_spec (fuel right : Nat) :
    (∀ c ∈ pairColumns fuel right, 1 ≤ c ∧ c ≤ right) ∧
      (pairColumns fuel right).Pairwise fun a b => b + 2 ≤ a := by
  induction fuel generalizing right with
  | zero => simp [pairColumns]
  | succ n ih =>
    unfold pairColumns
    by_cases h : right < 1
    · simp [h]
    · rw [if_neg h]
      by_cases h6 : right = 6
      · subst h6
        obtain ⟨h1, h2⟩ := ih (5 - 2)
        refine ⟨fun c hc => ?_, List.pairwise_cons.2 ⟨fun c hc => ?_, h2⟩⟩
        · rcases List.mem_cons.1 hc with rfl | hc
          · simp
          · have := h1 c hc; omega
        · have := h1 c hc; simp only [if_true]; omega
      · simp only [if_neg h6]
        obtain ⟨h1, h2⟩ := ih (right - 2)
        refine ⟨fun c hc => ?_, List.pairwise_cons.2 ⟨fun c hc => ?_, h2⟩⟩
        · rcases List.mem_cons.1 hc with rfl | hc
          · omega
          · have := h1 c hc; omega
        · have := h1 c hc; omega

/-- The rows of a pair are the rows of the symbol in one of the two orders. -/
theorem pairRows_perm (s right : Nat) : (pairRows s right).Perm (List.range s) := by
  unfold pairRows
  split
  · have : ((List.range s).map fun vert => s - 1 - vert) = (List.range s).reverse := by
      refine List.ext_getElem (by simp) fun i h1 h2 => ?_
      simp
    rw [this]
    exact List.reverse_perm _
  · exact List.Perm.refl _

/-- Every module on the path lies in the symbol. -/
theorem lt_of_mem_zigzagPath {s : Nat} {p : Nat × Nat} (h : p ∈ zigzagPath s) : p.1 < s ∧ p.2 < s := by
  unfold zigzagPath at h
  obtain ⟨right, hr, h⟩ := List.mem_flatMap.1 h
  obtain ⟨r, hrow, h⟩ := List.mem_flatMap.1 h
  have h1 := (pairColumns_spec _ _).1 right hr
  have h2 : r < s := List.mem_range.1 ((pairRows_perm s right).mem_iff.1 hrow)
  simp only [List.mem_cons, List.not_mem_nil, or_false] at h
  rcases h with rfl | rfl <;> simp only <;> omega

/-- The path visits no module twice. -/
theorem nodup_zigzagPath (s : Nat) : (zigzagPath s).Nodup := by
  unfold zigzagPath
  obtain ⟨hpos, hpw⟩ := pairColumns_spec s (s - 1)
  refine List.nodup_flatMap.2 ⟨fun right hr => ?_, ?_⟩
  · refine List.nodup_flatMap.2 ⟨fun r _ => ?_, ?_⟩
    · have := (hpos right hr).1
      simp only [List.nodup_cons, List.mem_cons, List.not_mem_nil, or_false, Prod.mk.injEq, not_false_eq_true,
        List.nodup_nil, and_true, true_and]
      omega
    · refine List.Pairwise.imp ?_ ((pairRows_perm s right).nodup_iff.2 List.nodup_range)
      intro a b hab x hx hy
      simp only [List.mem_cons, List.not_mem_nil, or_false] at hx hy
      rcases hx with rfl | rfl <;> rcases hy with h | h <;> exact hab (by simpa using congrArg Prod.fst h)
  · refine List.Pairwise.imp_of_mem ?_ hpw
    intro a b ha hb hab x hx hy
    have h1 := (hpos a ha).1
    have h2 := (hpos b hb).1
    obtain ⟨_, _, hx⟩ := List.mem_flatMap.1 hx
    obtain ⟨_, _, hy⟩ := List.mem_flatMap.1 hy
    simp only [List.mem_cons, List.not_mem_nil, or_false] at hx hy
    rcases hx with rfl | rfl <;> rcases hy with h | h <;>
      (have := congrArg Prod.snd h; simp only at this; omega)

/-- Counting along the path is counting column by column, whatever the direction of each pair. -/
theorem countP_zigzagPath (s : Nat) (p : Nat → Nat → Bool) :
    (zigzagPath s).countP (fun q => p q.1 q.2) =
      ((pairColumns s (s - 1)).map fun right =>
        (List.range s).countP (fun r => p r right) + (List.range s).countP fun r => p r (right - 1)).sum := by
  unfold zigzagPath
  rw [List.countP_flatMap]
  congr 1
  refine List.map_congr_left fun right _ => ?_
  simp only [Function.comp]
  rw [List.countP_flatMap, ← (pairRows_perm s right).countP_eq, ← (pairRows_perm s right).countP_eq]
  induction pairRows s right with
  | nil => rfl
  | cons r rs ih =>
    simp only [List.map_cons, List.sum_cons, Function.comp, List.countP_cons, List.countP_nil] at ih ⊢
    rw [ih]; omega

end Sys2Proof.Machine
end

