-- ==== Sys2Proof/Laws/CountLaw.lean ====
section
/-! SUPPORT. The count law (R198): after MX_FUNC for version V the symbol has exactly 8·TOTAL_CW(V) + REM_BITS(V) free
data modules on the zigzag. Each column's modules that are not free are one number, a bit per row, so that the count
is a small computation for each version. -/

namespace Sys2Proof.Machine

open Sys2Proof

/-! ### Bits of a column -/

/-- The bits lo, ..., lo + len − 1. -/
def rowBits (lo len : Nat) : Nat := (2 ^ len - 1) <<< lo

theorem testBit_rowBits (lo len r : Nat) : (rowBits lo len).testBit r = decide (lo ≤ r ∧ r < lo + len) := by
  unfold rowBits
  rw [Nat.testBit_shiftLeft, Nat.testBit_two_pow_sub_one]
  by_cases h1 : lo ≤ r
  · by_cases h2 : r < lo + len
    · simp [h1, h2, show r - lo < len by omega]
    · simp [h1, h2, show ¬ r - lo < len by omega]
  · simp [h1]

/-- `m` if the condition holds, no bit otherwise. -/
def maskIf (b : Bool) (m : Nat) : Nat := if b then m else 0

theorem testBit_maskIf (b : Bool) (m r : Nat) : (maskIf b m).testBit r = (b && m.testBit r) := by
  cases b <;> simp [maskIf]

/-- How many of the lowest `n` bits are 1. -/
def onesBelow : Nat → Nat → Nat
  | 0, _ => 0
  | n + 1, m => m % 2 + onesBelow n (m / 2)

theorem onesBelow_eq (n m : Nat) : onesBelow n m = (List.range n).countP fun r => m.testBit r := by
  induction n generalizing m with
  | zero => rfl
  | succ n ih =>
    rw [List.range_succ_eq_map, List.countP_cons, List.countP_map]
    have e : ((fun r => m.testBit r) ∘ Nat.succ) = fun r => (m / 2).testBit r := by
      funext r; simp [Nat.testBit_succ]
    rw [e, ← ih, onesBelow]
    rcases Nat.mod_two_eq_zero_or_one m with h | h <;> simp [h, Nat.testBit_zero, Nat.add_comm]

/-! ### The modules that are not free -/

/-- The alignment patterns of a column. -/
def alignBits (coords : List Nat) (c : Nat) : Nat :=
  match nearCoord coords c with
  | none => 0
  | some q => coords.foldr (fun p m => maskIf (!excludedPair coords p q) (rowBits (p - 2) 5) ||| m) 0

/-- The finders of a column (R191). -/
def finderBits (s c : Nat) : Nat :=
  maskIf (c < 7) (rowBits 0 7 ||| rowBits (s - 7) 7) ||| maskIf (s - 7 ≤ c && c < s) (rowBits 0 7)

/-- The separators of a column (R192). -/
def separatorBits (s c : Nat) : Nat :=
  maskIf (c ≤ 7) (rowBits 7 1 ||| rowBits (s - 8) 1) ||| maskIf (s - 8 ≤ c && c < s) (rowBits 7 1) |||
  maskIf (c = 7) (rowBits 0 7 ||| rowBits (s - 7) 7) ||| maskIf (c = s - 8) (rowBits 0 7)

/-- The timing modules of a column (R193). -/
def timingBits (s c : Nat) : Nat :=
  maskIf (8 ≤ c && c + 9 ≤ s) (rowBits 6 1) ||| maskIf (c = 6) (rowBits 8 (s - 16))

/-- The dark module's column (R195). -/
def darkBits (s c : Nat) : Nat := maskIf (c = 8) (rowBits (s - 8) 1)

/-- The format modules of a column (R196). -/
def formatBits (s c : Nat) : Nat :=
  maskIf (c = 8) (rowBits 0 6 ||| rowBits 7 2 ||| rowBits (s - 7) 7) |||
  maskIf (c ≤ 5 || c = 7 || (s - 8 ≤ c && c < s)) (rowBits 8 1)

/-- The version modules of a column (R197). -/
def versionBits (v c : Nat) : Nat :=
  maskIf (7 ≤ v) (maskIf (side v - 11 ≤ c && c ≤ side v - 9) (rowBits 0 6) |||
    maskIf (c ≤ 5) (rowBits (side v - 11) 3))

/-- The rows of column `c` whose modules MX_FUNC draws as anything but a free data module. -/
def drawnBits (v c : Nat) : Nat :=
  finderBits (side v) c ||| separatorBits (side v) c ||| timingBits (side v) c ||| alignBits (alignCoords v) c |||
  darkBits (side v) c ||| formatBits (side v) c ||| versionBits v c

/-- The coordinates of a version are at least 5 apart, the first is 6 and the last is s − 7. -/
theorem alignCoords_spaced {v : Nat} (hv : legalVersion v = true) :
    (alignCoords v).Pairwise (fun a b => a + 5 ≤ b) ∧ ∀ p ∈ alignCoords v, 6 ≤ p :=
  forall_legal (p := fun v => (alignCoords v).Pairwise (fun a b => a + 5 ≤ b) ∧ ∀ p ∈ alignCoords v, 6 ≤ p)
    (by decide +kernel) hv

theorem distance_le_two {a b : Nat} : distance a b ≤ 2 ↔ b ≤ a + 2 ∧ a ≤ b + 2 := by
  unfold distance; split <;> omega

/-- At most one coordinate lies within 2 of a row. -/
theorem nearCoord_eq_some {coords : List Nat} (h : coords.Pairwise fun a b => a + 5 ≤ b) {x p : Nat} :
    nearCoord coords x = some p ↔ p ∈ coords ∧ distance x p ≤ 2 := by
  unfold nearCoord
  induction coords with
  | nil => simp
  | cons q qs ih =>
    obtain ⟨hq, hqs⟩ := List.pairwise_cons.1 h
    by_cases hd : distance x q ≤ 2
    · rw [List.find?_cons_of_pos (by simpa using hd)]
      constructor
      · rintro ⟨⟩; exact ⟨List.mem_cons_self, hd⟩
      · rintro ⟨hm, hp⟩
        rcases List.mem_cons.1 hm with rfl | hm
        · rfl
        · have := hq p hm
          rw [distance_le_two] at hd hp
          omega
    · rw [List.find?_cons_of_neg (by simpa using hd), ih hqs]
      constructor
      · rintro ⟨hm, hp⟩; exact ⟨List.mem_cons_of_mem _ hm, hp⟩
      · rintro ⟨hm, hp⟩
        rcases List.mem_cons.1 hm with rfl | hm
        · exact absurd hp hd
        · exact ⟨hm, hp⟩

theorem testBit_foldr_or {α : Type} (f : α → Nat) (xs : List α) (r : Nat) :
    (xs.foldr (fun x m => f x ||| m) 0).testBit r = xs.any fun x => (f x).testBit r := by
  induction xs with
  | nil => simp
  | cons x xs ih => simp [ih]

theorem testBit_alignBits {v : Nat} (hv : legalVersion v = true) (r c : Nat) :
    (alignBits (alignCoords v) c).testBit r = (alignAt (alignCoords v) r c).isSome := by
  obtain ⟨hs, h6⟩ := alignCoords_spaced hv
  generalize alignCoords v = coords at hs h6
  unfold alignBits alignAt
  cases hc : nearCoord coords c with
  | none => cases nearCoord coords r <;> simp
  | some q =>
    simp only []
    rw [testBit_foldr_or]
    simp only [testBit_maskIf, testBit_rowBits]
    rw [Bool.eq_iff_iff, List.any_eq_true]
    constructor
    · rintro ⟨p, hp, hx⟩
      simp only [Bool.and_eq_true, Bool.not_eq_true', decide_eq_true_eq] at hx
      have hp6 := h6 p hp
      have : nearCoord coords r = some p :=
        (nearCoord_eq_some hs).2 ⟨hp, distance_le_two.2 (by omega)⟩
      simp [this, hx.1]
    · intro hx
      cases hr : nearCoord coords r with
      | none => simp [hr] at hx
      | some p =>
        rw [hr] at hx
        obtain ⟨hp, hd⟩ := (nearCoord_eq_some hs).1 hr
        rw [distance_le_two] at hd
        have hp6 := h6 p hp
        refine ⟨p, hp, ?_⟩
        by_cases he : excludedPair coords p q = true
        · simp [he] at hx
        · simp only [Bool.and_eq_true, Bool.not_eq_true', decide_eq_true_eq]
          exact ⟨by simpa using he, by omega⟩

/-! ### What is drawn where, without the colours -/

theorem finderColor_isSome (r0 c0 r c : Nat) :
    (finderColor r0 c0 r c).isSome = decide (r0 ≤ r ∧ r < r0 + 7 ∧ c0 ≤ c ∧ c < c0 + 7) := by
  unfold finderColor; split <;> simp_all

theorem finderAt_isSome {s : Nat} (hs : 21 ≤ s) (r c : Nat) :
    (finderAt s r c).isSome =
      decide ((r < 7 ∧ c < 7) ∨ (r < 7 ∧ s - 7 ≤ c ∧ c < s) ∨ (s - 7 ≤ r ∧ r < s ∧ c < 7)) := by
  unfold finderAt
  rw [Option.isSome_or, Option.isSome_or, finderColor_isSome, finderColor_isSome, finderColor_isSome,
    Bool.eq_iff_iff]
  simp only [Bool.or_eq_true, decide_eq_true_eq]
  omega

theorem separatorAt_isSome (s r c : Nat) :
    (separatorAt s r c).isSome = decide ((r = 7 ∧ c ≤ 7) ∨ (c = 7 ∧ r ≤ 6) ∨
     (r = 7 ∧ s - 8 ≤ c ∧ c < s) ∨ (c = s - 8 ∧ r ≤ 6) ∨
     (r = s - 8 ∧ c ≤ 7) ∨ (c = 7 ∧ s - 7 ≤ r ∧ r < s)) := by
  unfold separatorAt
  split
  · next h => simp only [Option.isSome_some]; exact (decide_eq_true h).symm
  · next h => simp only [Option.isSome_none]; exact (decide_eq_false h).symm

theorem timingAt_isSome (s r c : Nat) :
    (timingAt s r c).isSome = decide ((r = 6 ∧ 8 ≤ c ∧ c + 9 ≤ s) ∨ (c = 6 ∧ 8 ≤ r ∧ r + 9 ≤ s)) := by
  unfold timingAt
  split
  · simp_all
  · split <;> simp_all

theorem darkAt_isSome (s r c : Nat) : (darkAt s r c).isSome = decide (r = s - 8 ∧ c = 8) := by
  unfold darkAt; split <;> simp_all

theorem lookup_isSome {α β : Type} [BEq α] [LawfulBEq α] (l : List (α × β)) (a : α) :
    (l.lookup a).isSome = l.any fun p => p.1 == a := by
  induction l with
  | nil => rfl
  | cons p l ih =>
    rw [List.lookup_cons, List.any_cons, ← ih]
    by_cases h : p.1 = a
    · simp [h]
    · have h' : (a == p.1) = false := by simpa using Ne.symm h
      simp [h, h']

/-- The 30 format positions (R196). -/
theorem isFormatPos_eq {s : Nat} (hs : 21 ≤ s) (r c : Nat) :
    isFormatPos s r c = decide ((c = 8 ∧ (r ≤ 5 ∨ r = 7 ∨ r = 8 ∨ (s - 7 ≤ r ∧ r < s))) ∨
      (r = 8 ∧ (c ≤ 5 ∨ c = 7 ∨ (s - 8 ≤ c ∧ c < s)))) := by
  unfold isFormatPos
  rw [lookup_isSome, Bool.eq_iff_iff, List.any_eq_true]
  simp only [fmtPositions, List.mem_flatMap, List.mem_range, decide_eq_true_eq, beq_iff_eq]
  constructor
  · rintro ⟨q, ⟨i, hi, hq⟩, h⟩
    simp only [List.mem_cons, List.not_mem_nil, or_false] at hq
    rcases hq with rfl | rfl
    · unfold fmtPosA at h
      split at h <;> [skip; split at h <;> [skip; split at h <;> [skip; split at h]]] <;>
        simp only [Prod.mk.injEq] at h <;> omega
    · unfold fmtPosB at h
      split at h <;> simp only [Prod.mk.injEq] at h <;> omega
  · have key : ∀ i, i < 15 → (fmtPosA i = (r, c) ∨ fmtPosB s i = (r, c)) →
        ∃ x, (∃ a, a < 15 ∧ x ∈ [(fmtPosA a, a), (fmtPosB s a, a)]) ∧ x.1 = (r, c) := by
      rintro i hi (h | h)
      · exact ⟨_, ⟨i, hi, List.mem_cons_self⟩, h⟩
      · exact ⟨_, ⟨i, hi, List.mem_cons_of_mem _ List.mem_cons_self⟩, h⟩
    rintro (⟨rfl, h | rfl | rfl | h⟩ | ⟨rfl, h | rfl | h⟩)
    · exact key r (by omega) (.inl (by simp [fmtPosA, h]))
    · exact key 6 (by omega) (.inl rfl)
    · exact key 7 (by omega) (.inl rfl)
    · refine key (r - (s - 15)) (by omega) (.inr ?_)
      unfold fmtPosB
      rw [if_neg (by omega)]
      ext <;> simp only; omega
    · refine key (14 - c) (by omega) (.inl ?_)
      unfold fmtPosA
      rw [if_neg (by omega), if_neg (by omega), if_neg (by omega), if_neg (by omega)]
      ext <;> simp only; omega
    · exact key 8 (by omega) (.inl rfl)
    · refine key (s - 1 - c) (by omega) (.inr ?_)
      unfold fmtPosB
      rw [if_pos (by omega)]
      ext <;> simp only; omega

/-- The 36 version positions (R197). -/
theorem isVersionPos_eq {v : Nat} (r c : Nat) :
    isVersionPos v r c = (decide (7 ≤ v) && decide ((r ≤ 5 ∧ side v - 11 ≤ c ∧ c ≤ side v - 9) ∨
      (c ≤ 5 ∧ side v - 11 ≤ r ∧ r ≤ side v - 9))) := by
  unfold isVersionPos
  by_cases hv : 7 ≤ v
  · have hs : 45 ≤ side v := by unfold side; omega
    simp only [hv, decide_true, Bool.true_and]
    rw [lookup_isSome, Bool.eq_iff_iff, List.any_eq_true]
    simp only [verPositions, List.mem_flatMap, List.mem_range, decide_eq_true_eq, beq_iff_eq]
    constructor
    · rintro ⟨q, ⟨i, hi, hq⟩, h⟩
      simp only [List.mem_cons, List.not_mem_nil, or_false] at hq
      rcases hq with rfl | rfl <;> simp only [verPosA, verPosB, Prod.mk.injEq] at h <;> omega
    · have key : ∀ i, i < 18 → (verPosA (side v) i = (r, c) ∨ verPosB (side v) i = (r, c)) →
          ∃ x, (∃ a, a < 18 ∧ x ∈ [(verPosA (side v) a, a), (verPosB (side v) a, a)]) ∧ x.1 = (r, c) := by
        rintro i hi (h | h)
        · exact ⟨_, ⟨i, hi, List.mem_cons_self⟩, h⟩
        · exact ⟨_, ⟨i, hi, List.mem_cons_of_mem _ List.mem_cons_self⟩, h⟩
      rintro (⟨h1, h2, h3⟩ | ⟨h1, h2, h3⟩)
      · refine key (3 * r + (c - (side v - 11))) (by omega) (.inl ?_)
        unfold verPosA
        ext <;> simp only <;> omega
      · refine key (3 * c + (r - (side v - 11))) (by omega) (.inr ?_)
        unfold verPosB
        ext <;> simp only <;> omega
  · simp [hv]

/-- MX_FUNC leaves a module free exactly where it draws no function pattern and reserves no area (R190). -/
theorem isFree_drawnModule (v r c : Nat) :
    isFree (drawnModule v r c) = (!(functionAt v r c).isSome && !isFormatPos (side v) r c && !isVersionPos v r c) := by
  unfold drawnModule
  cases h : functionAt v r c with
  | some b => cases b <;> simp <;> decide
  | none =>
    cases h1 : isFormatPos (side v) r c
    · cases h2 : isVersionPos v r c <;> simp <;> decide
    · simp; decide

theorem testBit_finderBits {s : Nat} (hs : 21 ≤ s) (r c : Nat) :
    (finderBits s c).testBit r = (finderAt s r c).isSome := by
  rw [finderAt_isSome hs, Bool.eq_iff_iff]
  simp only [finderBits, Nat.testBit_or, testBit_maskIf, testBit_rowBits, Bool.or_eq_true, Bool.and_eq_true,
    decide_eq_true_eq]
  omega

theorem testBit_separatorBits {s : Nat} (hs : 21 ≤ s) (r c : Nat) :
    (separatorBits s c).testBit r = (separatorAt s r c).isSome := by
  rw [separatorAt_isSome, Bool.eq_iff_iff]
  simp only [separatorBits, Nat.testBit_or, testBit_maskIf, testBit_rowBits, Bool.or_eq_true, Bool.and_eq_true,
    decide_eq_true_eq]
  omega

theorem testBit_timingBits {s : Nat} (hs : 21 ≤ s) (r c : Nat) :
    (timingBits s c).testBit r = (timingAt s r c).isSome := by
  rw [timingAt_isSome, Bool.eq_iff_iff]
  simp only [timingBits, Nat.testBit_or, testBit_maskIf, testBit_rowBits, Bool.or_eq_true, Bool.and_eq_true,
    decide_eq_true_eq]
  omega

theorem testBit_darkBits (s r c : Nat) : (darkBits s c).testBit r = (darkAt s r c).isSome := by
  rw [darkAt_isSome, Bool.eq_iff_iff]
  simp only [darkBits, testBit_maskIf, testBit_rowBits, Bool.and_eq_true, decide_eq_true_eq]
  omega

theorem testBit_formatBits {s : Nat} (hs : 21 ≤ s) (r c : Nat) :
    (formatBits s c).testBit r = isFormatPos s r c := by
  rw [isFormatPos_eq hs, Bool.eq_iff_iff]
  simp only [formatBits, Nat.testBit_or, testBit_maskIf, testBit_rowBits, Bool.or_eq_true, Bool.and_eq_true,
    decide_eq_true_eq]
  omega

theorem testBit_versionBits (v r c : Nat) : (versionBits v c).testBit r = isVersionPos v r c := by
  rw [isVersionPos_eq, Bool.eq_iff_iff]
  simp only [versionBits, Nat.testBit_or, testBit_maskIf, testBit_rowBits, Bool.or_eq_true, Bool.and_eq_true,
    decide_eq_true_eq]
  unfold side
  omega

/-- The bits of a column are the modules that are not free. -/
theorem testBit_drawnBits {v : Nat} (hv : legalVersion v = true) (r c : Nat) :
    (drawnBits v c).testBit r = !isFree (drawnModule v r c) := by
  have hs := (side_le hv).1
  rw [isFree_drawnModule, drawnBits]
  simp only [Nat.testBit_or, testBit_finderBits hs, testBit_separatorBits hs, testBit_timingBits hs,
    testBit_alignBits hv, testBit_darkBits, testBit_formatBits hs, testBit_versionBits, functionAt, Option.isSome_or]
  simp [Bool.or_assoc]

/-- The free modules of a column. -/
theorem countP_column {v : Nat} (hv : legalVersion v = true) (c : Nat) :
    (List.range (side v)).countP (fun r => isFree (drawnModule v r c)) =
      side v - onesBelow (side v) (drawnBits v c) := by
  have h := List.length_eq_countP_add_countP (fun r => isFree (drawnModule v r c)) (l := List.range (side v))
  rw [List.length_range] at h
  have e : (List.range (side v)).countP (fun r => ¬ isFree (drawnModule v r c) = true) =
      onesBelow (side v) (drawnBits v c) := by
    rw [onesBelow_eq]
    refine List.countP_congr fun r _ => ?_
    rw [testBit_drawnBits hv]
    simp
  rw [e] at h
  omega

/-- The free modules on the path, from the columns' bits. -/
def pathCount (v : Nat) : Nat :=
  ((pairColumns (side v) (side v - 1)).map fun right =>
    (side v - onesBelow (side v) (drawnBits v right)) +
      (side v - onesBelow (side v) (drawnBits v (right - 1)))).sum

theorem countP_drawn {v : Nat} (hv : legalVersion v = true) :
    (zigzagPath (side v)).countP (fun q => isFree (drawnModule v q.1 q.2)) = pathCount v := by
  rw [countP_zigzagPath (side v) fun r c => isFree (drawnModule v r c)]
  refine congrArg List.sum (List.map_congr_left fun right _ => ?_)
  rw [countP_column hv, countP_column hv]

theorem pathCount_legal : ∀ v ∈ List.range' 1 40, pathCount v = 8 * totalCw v + remBits v := by
  decide +kernel

/-- R198: the free data modules MX_FUNC leaves for version V are exactly the bits MX_PLACE places. -/
theorem countLaw {v : Nat} (hv : legalVersion v = true) :
    ((zigzagPath (side v)).filter fun q => isFree (drawnModule v q.1 q.2)).length = 8 * totalCw v + remBits v := by
  rw [← List.countP_eq_length_filter, countP_drawn hv]
  exact forall_legal pathCount_legal hv

end Sys2Proof.Machine
end

