-- ==== Sys2Proof/Laws/Decode.lean ====
section
/-! SUPPORT. What the decoder accepts (R110, R111, R113): the format helpers' inversions, and that the OP names the
command. -/

namespace Sys2Proof

theorem decodeN_eq_ok {w : Word} {i j : Instr} :
    decodeN w i = .ok j ↔ (immA w = 0 ∧ immB w = 0 ∧ zField w = 0) ∧ i = j := by
  unfold decodeN; split <;> simp_all

theorem decodeI8_eq_ok {w : Word} {i : Byte → Instr} {j : Instr} :
    decodeI8 w i = .ok j ↔ (immB w = 0 ∧ zField w = 0) ∧ i (immA w) = j := by
  unfold decodeI8; split <;> simp_all

theorem decodeI16_eq_ok {w : Word} {i : Byte → Byte → Instr} {j : Instr} :
    decodeI16 w i = .ok j ↔ zField w = 0 ∧ i (immA w) (immB w) = j := by
  unfold decodeI16; split <;> simp_all

/-- The OP names the command (R110, R113). -/
theorem opField_of_decode {w : Word} {i : Instr} (h : decode w = .ok i) : opField w = opcode i := by
  unfold decode at h
  split at h <;> rename_i hop <;>
    simp only [decodeN_eq_ok, decodeI8_eq_ok, decodeI16_eq_ok, reduceCtorEq] at h <;>
    obtain ⟨-, rfl⟩ := h <;> refine BitVec.eq_of_toNat_eq (hop.trans ?_) <;> rfl

/-- A word is its four fields (R110). -/
theorem word_eq_fields (w : Word) : w = zField w ++ immB w ++ immA w ++ opField w := by
  refine BitVec.eq_of_getLsbD_eq fun i hi => ?_
  simp only [BitVec.getLsbD_append, zField, immB, immA, opField, BitVec.getLsbD_extractLsb']
  by_cases h1 : i < 8
  · simp [h1]
  · by_cases h2 : i - 8 < 8
    · simp [h1, h2, show 8 + (i - 8) = i by omega]
    · by_cases h3 : i - 8 - 8 < 8
      · simp [h1, h2, h3, show 16 + (i - 8 - 8) = i by omega]
      · simp [h1, h2, h3, show i - 8 - 8 - 8 < 8 by omega, show 24 + (i - 8 - 8 - 8) = i by omega]

/-- The word of a command as a number (R110). -/
theorem toNat_encode (i : Instr) :
    (encode i).toNat = (immediates i).1.toNat * 65536 + (immediates i).2.toNat * 256 + (opcode i).toNat := by
  unfold encode
  generalize opcode i = o
  generalize (immediates i).1 = b
  generalize (immediates i).2 = a
  simp only [BitVec.toNat_append]
  have h1 := b.isLt; have h2 := a.isLt; have h3 := o.isLt
  rw [← Nat.shiftLeft_add_eq_or_of_lt h3, ← Nat.shiftLeft_add_eq_or_of_lt h2, ← Nat.shiftLeft_add_eq_or_of_lt h1]
  simp [Nat.shiftLeft_eq]; omega

/-- A command word is legal once its OP is listed with its format and its fields fill no reserved bit (R111, R114). -/
theorem legalWord_encode {i : Instr} (hf : formatOf (opcode i).toNat = some i.format)
   (hb : (immediates i).1.toNat * 65536 + (immediates i).2.toNat * 256 + (opcode i).toNat < 2 ^ i.format.usedBits) :
    legalWord (encode i) = true := by
  have e : (encode i).toNat % 256 = (opcode i).toNat := by
    rw [toNat_encode]; have := (opcode i).isLt; omega
  unfold legalWord
  rw [e, hf, toNat_encode]
  exact decide_eq_true hb

end Sys2Proof
end

