-- ==== Sys2Proof/Laws/Drawn.lean ====
section
/-! SUPPORT. The matrix RAM right after MX_FUNC (R190): every byte of it, the symbol read back as a grid, and the number
of its free modules along the zigzag (R198). -/

namespace Sys2Proof.Machine

open Sys2Proof

/-- The symbol MX_FUNC draws, row by row (R190). -/
def drawnGrid (v : Nat) : Grid :=
  (List.range (side v)).map fun r => (List.range (side v)).map fun c => drawnModule v r c

theorem length_drawnGrid (v : Nat) : (drawnGrid v).length = side v := by simp [drawnGrid]

theorem length_row_drawnGrid {v : Nat} {row : List Byte} (h : row ∈ drawnGrid v) : row.length = side v := by
  obtain ⟨r, -, rfl⟩ := List.mem_map.1 h
  simp

theorem gridAt_drawnGrid {v r c : Nat} (hr : r < side v) (hc : c < side v) :
    gridAt (drawnGrid v) r c = drawnModule v r c := by
  unfold gridAt drawnGrid
  simp [List.getD_eq_getElem?_getD, hr, hc]

/-- A matrix offset names its module (R85). -/
theorem matAddr_inj {r c r' c' : Nat} (hc : c < 177) (hc' : c' < 177) (h : matAddr r c = matAddr r' c') :
    r = r' ∧ c = c' := by
  simp only [matAddr, matBase, matStride] at h; omega

theorem matRow_matAddr {r c : Nat} (hc : c < 177) : matRow (matAddr r c) = r := by
  simp only [matRow, matAddr, matBase, matStride]; omega

theorem matCol_matAddr {r c : Nat} (hc : c < 177) : matCol (matAddr r c) = c := by
  simp only [matCol, matAddr, matBase, matStride]; omega

/-- The byte MX_FUNC stores at a matrix offset. -/
theorem read_drawnMatrix (m : Memory) (v a : Nat) :
    (m.writeRange matBase (drawnMatrix v)).read a =
      if matBase ≤ a ∧ a < matBase + matSize then some (drawnByte v (a - matBase)) else m.read a := by
  rw [Memory.read_writeRange, length_drawnMatrix]
  split
  · next h =>
    rw [drawnMatrix, List.getElem?_map, List.getElem?_range (by omega)]; rfl
  · rfl

/-- MX_FUNC draws module bytes with bits[7:4] = 0 (R56). -/
theorem drawnModule_lt (v r c : Nat) : (drawnModule v r c).toNat < 16 := by
  unfold drawnModule
  split
  · rename_i color _; cases color <;> decide
  · split
    · decide
    · split <;> decide

theorem drawnByte_lt (v o : Nat) : (drawnByte v o).toNat < 16 := by
  unfold drawnByte
  split
  · exact drawnModule_lt _ _ _
  · decide

/-- Module (r, c) after MX_FUNC: drawn inside the symbol, 0 outside it (R190). -/
theorem read_drawn (m : Memory) (v : Nat) {r c : Nat} (hr : r < 177) (hc : c < 177) :
    (m.writeRange matBase (drawnMatrix v)).read (matAddr r c) =
      some (if r < side v ∧ c < side v then drawnModule v r c else 0x00) := by
  rw [read_drawnMatrix, if_pos (by simp only [matAddr, matBase, matStride, matSize]; omega)]
  have e1 : (matAddr r c - matBase) / matStride = r := by simp only [matAddr, matBase, matStride]; omega
  have e2 : (matAddr r c - matBase) % matStride = c := by simp only [matAddr, matBase, matStride]; omega
  rw [drawnByte, e1, e2]

/-- The symbol read back right after MX_FUNC. -/
theorem readSymbol_drawn {m : Memory} (hw : m.wf) {v : Nat} (hv : legalVersion v = true) :
    readSymbol (m.writeRange matBase (drawnMatrix v)) (side v) = some (drawnGrid v) := by
  have hs := side_le hv
  refine (readSymbol_eq_some (Memory.writeRange_wf hw _ _)).2
    ⟨length_drawnGrid v, fun row h => length_row_drawnGrid h, fun r c hr hc => ?_⟩
  rw [read_drawn m v (by omega) (by omega), if_pos ⟨hr, hc⟩, gridAt_drawnGrid hr hc]

/-- The zigzag of a drawn symbol has one module for every bit MX_PLACE places (R198). -/
theorem length_zigzag_drawn {v : Nat} (hv : legalVersion v = true) :
    (zigzag (side v) (drawnGrid v)).length = 8 * totalCw v + remBits v := by
  rw [← countLaw hv, zigzag]
  congr 1
  refine List.filter_congr fun q hq => ?_
  have h := lt_of_mem_zigzagPath hq
  rw [gridAt_drawnGrid h.1 h.2]

/-- A module of the symbol lies in the symbol (R56). -/
theorem inSymbol_matAddr {s r c : Nat} (hs : s ≤ 177) (hr : r < s) (hc : c < s) : inSymbol s (matAddr r c) = true := by
  have h : isMatrix (matAddr r c) = true := by
    simp only [isMatrix, matAddr, matBase, matStride, matSize, Bool.and_eq_true]
    exact ⟨decide_eq_true (by omega), decide_eq_true (by omega)⟩
  simp [inSymbol, h, matRow_matAddr (show c < 177 by omega), matCol_matAddr (show c < 177 by omega), hr, hc]

/-- An offset of the symbol is a module's. -/
theorem eq_matAddr_of_inSymbol {s a : Nat} (h : inSymbol s a = true) :
    matRow a < s ∧ matCol a < s ∧ a = matAddr (matRow a) (matCol a) := by
  simp only [inSymbol, isMatrix, Bool.and_eq_true, decide_eq_true_eq] at h
  obtain ⟨⟨⟨h1, h2⟩, h3⟩, h4⟩ := h
  refine ⟨h3, h4, ?_⟩
  simp only [matAddr, matRow, matCol, matBase, matStride] at *
  omega

end Sys2Proof.Machine
end

