-- ==== Sys2Proof/Laws/Modules.lean ====
section
/-! SUPPORT. What the commands that store modules one by one do to each byte of memory: MX_PLACE (R200), MASK_APPLY
(R233), FMT_WRITE (R254) and VER_WRITE (R255). -/

namespace Sys2Proof.Machine

open Sys2Proof

/-- MX_PLACE stores only in modules of the symbol that its list names. -/
theorem read_placeModules (m : Memory) (s : Nat) (ps : List (Nat × Bool)) (a : Nat) :
    (placeModules m s ps).read a =
      (m.read a).map fun b => if inSymbol s a then ((ps.lookup a).map fun bit => placeBit bit b).getD b else b := by
  rw [placeModules, Memory.read_modify]
  congr 1
  funext b
  split
  · cases ps.lookup a <;> rfl
  · rfl

theorem placeModules_wf {m : Memory} (hw : m.wf) (s : Nat) (ps : List (Nat × Bool)) : (placeModules m s ps).wf :=
  Memory.modify_wf hw _

theorem read_placeModules_outside (m : Memory) {s a : Nat} (ps : List (Nat × Bool)) (h : inSymbol s a = false) :
    (placeModules m s ps).read a = m.read a := by
  rw [read_placeModules]
  cases m.read a <;> simp [h]

/-- MASK_APPLY masks the modules of the symbol and leaves every other byte. -/
theorem read_maskModules (m : Memory) (s k a : Nat) :
    (maskModules m s k).read a =
      (m.read a).map fun b => if inSymbol s a then maskByte k (matRow a) (matCol a) b else b := by
  rw [maskModules, Memory.read_modify]

theorem maskModules_wf {m : Memory} (hw : m.wf) (s k : Nat) : (maskModules m s k).wf := Memory.modify_wf hw _

theorem read_maskModules_outside (m : Memory) {s a : Nat} (k : Nat) (h : inSymbol s a = false) :
    (maskModules m s k).read a = m.read a := by
  rw [read_maskModules]
  cases m.read a <;> simp [h]

/-- The format positions lie in the symbol (R196). -/
theorem fmtPositions_lt {s : Nat} (hs : 21 ≤ s) {p : (Nat × Nat) × Nat} (hp : p ∈ fmtPositions s) :
    p.1.1 < s ∧ p.1.2 < s ∧ p.2 < 15 := by
  simp only [fmtPositions, List.mem_flatMap, List.mem_range, List.mem_cons, List.not_mem_nil, or_false] at hp
  obtain ⟨i, hi, rfl | rfl⟩ := hp
  · refine ⟨?_, ?_, hi⟩ <;> simp only [fmtPosA] <;> split_ifs <;> simp <;> omega
  · refine ⟨?_, ?_, hi⟩ <;> simp only [fmtPosB] <;> split_ifs <;> simp <;> omega

/-- The version positions lie in the symbol (R197). -/
theorem verPositions_lt {s : Nat} (hs : 21 ≤ s) {p : (Nat × Nat) × Nat} (hp : p ∈ verPositions s) :
    p.1.1 < s ∧ p.1.2 < s ∧ p.2 < 18 := by
  simp only [verPositions, List.mem_flatMap, List.mem_range, List.mem_cons, List.not_mem_nil, or_false] at hp
  obtain ⟨i, hi, rfl | rfl⟩ := hp <;> simp [verPosA, verPosB] <;> omega

theorem mem_formatModules {s : Nat} {w : BitVec 15} {c : Host.Cell} (h : c ∈ formatModules s w) :
    ∃ p ∈ fmtPositions s, c = (matAddr p.1.1 p.1.2, moduleByte (w.getLsbD p.2) .format true) := by
  obtain ⟨p, hp, rfl⟩ := List.mem_map.1 h
  exact ⟨p, hp, rfl⟩

theorem mem_versionModules {s : Nat} {w : BitVec 18} {c : Host.Cell} (h : c ∈ versionModules s w) :
    ∃ p ∈ verPositions s, c = (matAddr p.1.1 p.1.2, moduleByte (w.getLsbD p.2) .version true) := by
  obtain ⟨p, hp, rfl⟩ := List.mem_map.1 h
  exact ⟨p, hp, rfl⟩

/-- FMT_WRITE stores only in the symbol. -/
theorem inSymbol_formatModules {s : Nat} (hs : 21 ≤ s ∧ s ≤ 177) {w : BitVec 15} {c : Host.Cell}
    (h : c ∈ formatModules s w) : inSymbol s c.1 = true := by
  obtain ⟨p, hp, rfl⟩ := mem_formatModules h
  have hl := fmtPositions_lt hs.1 hp
  exact inSymbol_matAddr hs.2 hl.1 hl.2.1

/-- VER_WRITE stores only in the symbol. -/
theorem inSymbol_versionModules {s : Nat} (hs : 21 ≤ s ∧ s ≤ 177) {w : BitVec 18} {c : Host.Cell}
    (h : c ∈ versionModules s w) : inSymbol s c.1 = true := by
  obtain ⟨p, hp, rfl⟩ := mem_versionModules h
  have hl := verPositions_lt hs.1 hp
  exact inSymbol_matAddr hs.2 hl.1 hl.2.1

/-- Single writes leave every byte that none of them names. -/
theorem read_writeEach_outside (m : Memory) {s a : Nat} {ws : List Host.Cell} (hin : ∀ c ∈ ws, inSymbol s c.1 = true)
    (h : inSymbol s a = false) : (m.writeEach ws).read a = m.read a := by
  refine Memory.read_writeEach_of_ne fun c hc e => ?_
  rw [← e, hin c hc] at h
  cases h

/-- A module byte built from its fields has bits[7:4] = 0 (R56). -/
theorem moduleByte_lt (color : Bool) (kind : ModuleKind) (asg : Bool) : (moduleByte color kind asg).toNat < 16 := by
  cases color <;> cases kind <;> cases asg <;> decide

theorem placeBit_lt (bit : Bool) (b : Byte) : (placeBit bit b).toNat < 16 := moduleByte_lt _ _ _

/-- Masking keeps bits[7:4] at 0 (R220). -/
theorem maskByte_lt (k r c : Nat) {b : Byte} (h : b.toNat < 16) : (maskByte k r c b).toNat < 16 := by
  unfold maskByte
  split
  · exact moduleByte_lt _ _ _
  · exact h

end Sys2Proof.Machine
end

