-- ==== Sys2Proof/Laws/PerInstr.lean ====
section
/-! SUPPORT. A fact of every command as syntax, one lemma per constructor: the OP of its row of the opcode map (R113)
is listed with its format, and the word of the command, whatever its immediates, is legal (R111, R114). -/

namespace Sys2Proof.Laws.LegalEncoding

open Sys2Proof

/-- The OP is listed with the command's format, and the command's word is legal. -/
def Statement (i : Instr) : Prop :=
  formatOf (opcode i).toNat = some i.format ∧ legalWord (Sys2Proof.encode i) = true

theorem of_fields {i : Instr} (hf : formatOf (opcode i).toNat = some i.format)
    (hb : (immediates i).1.toNat * 65536 + (immediates i).2.toNat * 256 + (opcode i).toNat < 2 ^ i.format.usedBits) :
    Statement i := ⟨hf, legalWord_encode hf hb⟩

theorem nop : Statement .nop := of_fields (by decide) (by decide)

theorem clear : Statement .clear := of_fields (by decide) (by decide)

theorem gfMul (a b : Byte) : Statement (.gfMul a b) := by
  refine of_fields rfl ?_
  change b.toNat * 65536 + a.toNat * 256 + 8 < 16777216
  omega

theorem gfExp (a : Byte) : Statement (.gfExp a) := by
  refine of_fields rfl ?_
  change 0 * 65536 + a.toNat * 256 + 9 < 65536
  omega

theorem gfLog (a : Byte) : Statement (.gfLog a) := by
  refine of_fields rfl ?_
  change 0 * 65536 + a.toNat * 256 + 10 < 65536
  omega

theorem gfInv (a : Byte) : Statement (.gfInv a) := by
  refine of_fields rfl ?_
  change 0 * 65536 + a.toNat * 256 + 11 < 65536
  omega

theorem rsGen (a : Byte) : Statement (.rsGen a) := by
  refine of_fields rfl ?_
  change 0 * 65536 + a.toNat * 256 + 16 < 65536
  omega

theorem rsDiv : Statement .rsDiv := of_fields (by decide) (by decide)

theorem rsSynd (a : Byte) : Statement (.rsSynd a) := by
  refine of_fields rfl ?_
  change 0 * 65536 + a.toNat * 256 + 18 < 65536
  omega

theorem rsEncodeAll : Statement .rsEncodeAll := of_fields (by decide) (by decide)

theorem interleave : Statement .interleave := of_fields (by decide) (by decide)

theorem mxFunc : Statement .mxFunc := of_fields (by decide) (by decide)

theorem mxPlace : Statement .mxPlace := of_fields (by decide) (by decide)

theorem maskEval (a : Byte) : Statement (.maskEval a) := by
  refine of_fields rfl ?_
  change 0 * 65536 + a.toNat * 256 + 40 < 65536
  omega

theorem maskSearch : Statement .maskSearch := of_fields (by decide) (by decide)

theorem maskApply (a : Byte) : Statement (.maskApply a) := by
  refine of_fields rfl ?_
  change 0 * 65536 + a.toNat * 256 + 42 < 65536
  omega

theorem bchFmt (a b : Byte) : Statement (.bchFmt a b) := by
  refine of_fields rfl ?_
  change b.toNat * 65536 + a.toNat * 256 + 48 < 16777216
  omega

theorem bchVer (a : Byte) : Statement (.bchVer a) := by
  refine of_fields rfl ?_
  change 0 * 65536 + a.toNat * 256 + 49 < 65536
  omega

theorem fmtWrite (a : Byte) : Statement (.fmtWrite a) := by
  refine of_fields rfl ?_
  change 0 * 65536 + a.toNat * 256 + 50 < 65536
  omega

theorem verWrite : Statement .verWrite := of_fields (by decide) (by decide)

theorem encode : Statement .encode := of_fields (by decide) (by decide)

end Sys2Proof.Laws.LegalEncoding
end

