-- ==== Sys2Proof/Laws/Step.lean ====
section
/-! SUPPORT. Everything a command and a step can come to, said once: the outcome of a command as one function, and the
inversion of a step that answers a next state (R9, R118). -/

namespace Sys2Proof.Machine

open Sys2Proof

/-- What one step that answers a next state has done, in the state `u` whose agenda holds what comes after it. -/
inductive StepEffect (u t : State) : Prop where
  /-- The engine had nothing to do (R297). -/
  | idle (h : t = u)
  /-- The latched command ran (R118). -/
  | command (o : Latch) (i : Instr) (hl : u.latch = some o) (hd : decode o.word = .ok i) (h : exec i u = .next t)
  /-- The latched word was illegal (R114). -/
  | illegal (o : Latch) (hl : u.latch = some o) (h : t = u.complete (opField o.word) 0x01)
  /-- A register was read (R31, R321). -/
  | csrRead (c : Csr) (h : t = (afterCsrRead u c).answer (.data (csrReadData u c)))
  /-- A register was written (R31). -/
  | csrWrite (c : Csr) (w : Word) (h : t = (hostWriteCsr u c w).answer .written)
  /-- RAM bytes were read (R82). -/
  | ramRead (d : Word) (h : t = u.answer (.data d))
  /-- RAM bytes were written (R82, R86). -/
  | ramWrite (r : Region) (off n : Nat) (w : Word) (a : Access) (ha : accessTarget a = some (.ram r off n))
      (hl : u.latch = none)
      (h : t = (u.commit u.res (u.mem.writeRange off ((toBytes w n).map (ramByte r)))).answer .written)
  /-- The platform's reset input (R310). -/
  | hardReset (h : t = u.hardReset)

theorem stepEffect_of_engineStep {u t : State} (h : engineStep u = .next t) : StepEffect u t := by
  rcases engineStep_cases u with ⟨hl, he⟩ | ⟨o, i, hl, hd, he⟩ | ⟨o, hl, he⟩
  · rw [he] at h; cases h; exact .idle rfl
  · rw [he] at h; exact .command o i hl hd h
  · rw [he] at h; cases h; exact .illegal o hl rfl

theorem stepEffect_of_hostAccess {u t : State} {a : Access} (h : hostAccess u a = .next t) : StepEffect u t := by
  rcases hostAccess_cases u a with ⟨f, he⟩ | ⟨c, _, _, he⟩ | ⟨c, w, _, _, he⟩ | ⟨r, off, n, bs, _, _, _, he⟩ |
    ⟨r, off, n, w, ha, hb, _, he⟩
  · rw [he] at h; cases h
  · rw [he] at h; cases h; exact .csrRead c rfl
  · rw [he] at h; cases h; exact .csrWrite c w rfl
  · rw [he] at h; cases h; exact .ramRead _ rfl
  · rw [he] at h; cases h
    exact .ramWrite r off n w a ha (by simpa [State.busy] using hb) rfl

/-- Every step that answers a next state has one of these effects, on the state itself or on the state whose agenda
has lost its first event. -/
theorem step_effect {s t : State} (h : step s = .next t) :
    (s.agenda = [] ∧ StepEffect s t) ∨ ∃ e es, s.agenda = e :: es ∧ StepEffect (s.withAgenda es) t := by
  cases ha : s.agenda with
  | nil => rw [step_of_nil ha] at h; exact .inl ⟨rfl, stepEffect_of_engineStep h⟩
  | cons e es =>
    refine .inr ⟨e, es, rfl, ?_⟩
    cases e with
    | host a => rw [step_of_host ha] at h; exact stepEffect_of_hostAccess h
    | engine => rw [step_of_engine ha] at h; exact stepEffect_of_engineStep h
    | hardReset => rw [step_of_hardReset ha] at h; cases h; exact .hardReset rfl
    | secondMaster a => rw [step_of_secondMaster ha] at h; cases h

end Sys2Proof.Machine
end

