-- ==== Sys2Proof/Machine/Assembler.lean ====
section
/-! DEFINITION. The host syntax of 30_encoding.md R116 as lists of events: each host operation is one bus access, and
a wait names how many polls find the engine busy before its step. -/

namespace Sys2Proof.Machine

open Sys2Proof

/-- `WR32 target, value` (R116). -/
def wr32 (target : Nat) (value : Word) : Event := .host ⟨BitVec.ofNat 16 target, .word, .write value⟩

/-- `WR8 target, value` (R116). -/
def wr8 (target : Nat) (value : Byte) : Event := .host ⟨BitVec.ofNat 16 target, .byte, .write (value.setWidth 32)⟩

/-- `RD32 target` (R116). -/
def rd32 (target : Nat) : Event := .host ⟨BitVec.ofNat 16 target, .word, .read⟩

/-- `RD8 target` (R116). -/
def rd8 (target : Nat) : Event := .host ⟨BitVec.ofNat 16 target, .byte, .read⟩

/-- `ISSUE cmd` (R116). -/
def issueCmd (i : Instr) : Event := wr32 0x008 (encode i)

/-- `WAIT` (R116): `polls` reads of STATUS find BUSY = 1, the engine completes, one more read finds BUSY = 0, and the
host clears DONE. -/
def waitDone (polls : Nat) : List Event :=
  List.replicate polls (rd32 0x00C) ++ [.engine, rd32 0x00C, wr32 0x00C 0x00000002]

/-- `DO cmd` (R116). -/
def doCmd (i : Instr) (polls : Nat) : List Event := issueCmd i :: waitDone polls

/-- `SETCFG V, E` (R116), with E as CONFIG.ECL encodes it. -/
def setCfg (v : BitVec 6) (e : BitVec 2) : Event := wr32 0x014 (e.setWidth 32 <<< 8 ||| v.setWidth 32)

/-- `SETARGS a0, a1, a2` (R116). -/
def setArgs (a0 a1 a2 : BitVec 16) : List Event :=
  [wr32 0x018 (a0.setWidth 32), wr32 0x01C (a1.setWidth 32), wr32 0x020 (a2.setWidth 32)]

/-- `LOAD region+off, b0, b1, ...` (R116), the target as a window offset. -/
def load (target : Nat) : List Byte → List Event
  | [] => []
  | b :: bs => wr8 target b :: load (target + 1) bs

end Sys2Proof.Machine
end

