-- ==== Sys2Proof/Tests/Slice0.lean ====
section
/-! SUPPORT. Tests of the model: words that WellFormed and the decoder refuse, one word of every command written out from
the spec's encoding, small steps with results from spec/95_test_vectors.md, and for every statement with hypotheses a
concrete state that meets them. -/

namespace Sys2Proof.Tests

open Sys2Proof Sys2Proof.Machine Sys2Proof.Safety

/-! ### Ill-formed words (R111, R114): each check refuses one -/

theorem test_reserved_op_refused : legalWord 0x00000002 = false ∧ decode 0x00000002 = .error (.reservedOpcode 0x02) := by
  decide

theorem test_last_reserved_op_refused :
    legalWord 0x000000FF = false ∧ decode 0x000000FF = .error (.reservedOpcode 0xFF) := by decide

theorem test_format_n_reserved_bits_refused :
    legalWord 0x00000101 = false ∧ decode 0x00000101 = .error (.reservedBits 0x01) := by decide

theorem test_format_n_z_refused :
    legalWord 0x01000000 = false ∧ decode 0x01000000 = .error (.reservedBits 0x00) := by decide

theorem test_format_i8_reserved_bits_refused :
    legalWord 0x00010709 = false ∧ decode 0x00010709 = .error (.reservedBits 0x09) := by decide

theorem test_format_i16_reserved_bits_refused :
    legalWord 0x01CA5308 = false ∧ decode 0x01CA5308 = .error (.reservedBits 0x08) := by decide

/-! ### One word of every command, bit 31 first, from R111's patterns and R113's OPs -/

theorem test_decode_nop : decode 0b00000000000000000000000000000000 = .ok .nop := by decide
theorem test_decode_clear : decode 0b00000000000000000000000000000001 = .ok .clear := by decide
theorem test_decode_gfMul : decode 0b00000000110010100101001100001000 = .ok (.gfMul 0x53 0xCA) := by decide
theorem test_decode_gfExp : decode 0b00000000000000000001100100001001 = .ok (.gfExp 25) := by decide
theorem test_decode_gfLog : decode 0b00000000000000000001110100001010 = .ok (.gfLog 0x1D) := by decide
theorem test_decode_gfInv : decode 0b00000000000000000101001100001011 = .ok (.gfInv 0x53) := by decide
theorem test_decode_rsGen : decode 0b00000000000000000000011100010000 = .ok (.rsGen 7) := by decide
theorem test_decode_rsDiv : decode 0b00000000000000000000000000010001 = .ok .rsDiv := by decide
theorem test_decode_rsSynd : decode 0b00000000000000000000001100010010 = .ok (.rsSynd 3) := by decide
theorem test_decode_rsEncodeAll : decode 0b00000000000000000000000000010011 = .ok .rsEncodeAll := by decide
theorem test_decode_interleave : decode 0b00000000000000000000000000011000 = .ok .interleave := by decide
theorem test_decode_mxFunc : decode 0b00000000000000000000000000100000 = .ok .mxFunc := by decide
theorem test_decode_mxPlace : decode 0b00000000000000000000000000100001 = .ok .mxPlace := by decide
theorem test_decode_maskEval : decode 0b00000000000000000000011000101000 = .ok (.maskEval 6) := by decide
theorem test_decode_maskSearch : decode 0b00000000000000000000000000101001 = .ok .maskSearch := by decide
theorem test_decode_maskApply : decode 0b00000000000000000000011000101010 = .ok (.maskApply 6) := by decide
theorem test_decode_bchFmt : decode 0b00000000000000100000011000110000 = .ok (.bchFmt 6 2) := by decide
theorem test_decode_bchVer : decode 0b00000000000000000010100000110001 = .ok (.bchVer 40) := by decide
theorem test_decode_fmtWrite : decode 0b00000000000000000000011000110010 = .ok (.fmtWrite 6) := by decide
theorem test_decode_verWrite : decode 0b00000000000000000000000000110011 = .ok .verWrite := by decide
theorem test_decode_encode : decode 0b00000000000000000000000000111111 = .ok .encode := by decide

/-! ### Small steps -/

/-- After reset, with a command accepted: version 1, level M (R310, R117). -/
def inFlight (i : Instr) : State := State.reset.accept (encode i)

/-- The same with no command in flight, some DCW and ECC bytes, the operands of SETARGS (R116) and a generator. -/
def idleData (dcw ecc : List Byte) (a0 a1 a2 : BitVec 16) (deg : Nat) : State :=
  { State.reset with
    arg0 := a0, arg1 := a1, arg2 := a2,
    res := if deg = 0 then Results.zero else Results.zero.setGen deg,
    mem := Memory.writeRange (Memory.writeRange [] (0x1000 + a0.toNat) dcw) (0x2000 + a2.toNat) ecc }

/-- The same with a command in flight. -/
def withData (i : Instr) (dcw ecc : List Byte) (a0 a1 a2 : BitVec 16) (deg : Nat) : State :=
  (idleData dcw ecc a0 a1 a2 deg).accept (encode i)

/-- The flags after MX_FUNC for version v (R190), a command in flight at that version and level Q. -/
def afterDraw (i : Instr) (v : BitVec 6) (m : Memory) : State :=
  { State.reset with
    version := v, ecl := 2, mem := m,
    res := { Results.zero with funcDone := true, mxVersion := v } }.accept (encode i)

/-- A field of the state a meaning answers, for comparing with a vector. -/
def after (r : Host.Outcome State Fault Refusal) (f : State → α) : Option α :=
  match r with
  | .next t => some (f t)
  | .fault _ => none
  | .refused _ => none

/-- The fault a step ends in, if it does. -/
def faultOf (r : Host.Outcome State Fault Refusal) : Option Fault :=
  match r with
  | .next _ => none
  | .fault f => some f
  | .refused _ => none

/-- The ERRCODE word a meaning leaves. -/
def errcodeAfter (r : Host.Outcome State Fault Refusal) : Option Word := after r State.errcodeWord

theorem test_nop : after (exec .nop (inFlight .nop)) (fun t => (t.status, t.errcodeWord)) = some (0x00000002, 0) := by
  decide

theorem test_illegal_nop : after (engineStep (State.reset.accept 0x01000000)) (fun t => (t.err, t.errcodeWord)) =
    some (true, 0x00000001) := by decide

theorem test_clear : after (exec .clear { inFlight .clear with res := { Results.zero with verDone := true }, ovr := true })
    (fun t => (t.status, t.errcodeWord)) = some (0x0000000A, 0x00000100) := by decide

theorem test_gfMul : after (exec (.gfMul 0x53 0xCA) (inFlight .nop)) (·.res.gfRes) = some 0x8F := by decide
theorem test_gfMul_reduces : after (exec (.gfMul 0x80 0x02) (inFlight .nop)) (·.res.gfRes) = some 0x1D := by decide
theorem test_gfExp : after (exec (.gfExp 25) (inFlight .nop)) (·.res.gfRes) = some 0x03 := by decide +kernel
theorem test_gfExp_wraps : after (exec (.gfExp 255) (inFlight .nop)) (·.res.gfRes) = some 0x01 := by decide
theorem test_gfLog : after (exec (.gfLog 0xFF) (inFlight .nop)) (·.res.gfRes) = some 175 := by decide +kernel
theorem test_gfLog_zero : errcodeAfter (exec (.gfLog 0x00) (inFlight .nop)) = some 0x00000A04 := by decide
theorem test_gfInv : after (exec (.gfInv 0x53) (inFlight .nop)) (·.res.gfRes) = some 0x8C := by decide +kernel
theorem test_gfInv_zero : errcodeAfter (exec (.gfInv 0x00) (inFlight .nop)) = some 0x00000B04 := by decide

theorem test_rsGen : after (exec (.rsGen 7) (inFlight .nop)) (fun t => (t.res.gen.toList.take 9, t.res.genDeg)) =
    some ([0x75, 0x44, 0x0B, 0xA4, 0x9A, 0x7A, 0x7F, 0x01, 0x00], 7) := by decide +kernel

theorem test_rsGen_too_long : errcodeAfter (exec (.rsGen 31) (inFlight .nop)) = some 0x00001003 := by decide

theorem test_rsDiv : after (exec .rsDiv (withData .rsDiv [0x12, 0x34, 0x56] [] 0 3 0 3))
    (fun t => (t.mem.read 0x2000, t.mem.read 0x2001, t.mem.read 0x2002)) = some (some 0x81, some 0xC3, some 0x32) := by
  decide +kernel

theorem test_rsDiv_no_generator : errcodeAfter (exec .rsDiv (withData .rsDiv [] [] 4095 2 0 0)) = some 0x00001105 := by
  decide

theorem test_rsSynd :
    after (exec (.rsSynd 3) (withData (.rsSynd 3) [0x13, 0x34, 0x56] [0x81, 0xC3, 0x32] 0 3 0 0))
      (fun t => (t.res.synd.toList.take 4, t.res.synz)) = some ([0x01, 0x20, 0x74, 0x00], false) := by decide +kernel

theorem test_rsSynd_zero :
    after (exec (.rsSynd 3) (withData (.rsSynd 3) [0x12, 0x34, 0x56] [0x81, 0xC3, 0x32] 0 3 0 0)) (·.res.synz) =
      some true := by decide +kernel

/-- The 1-M data codewords of "HELLO WORLD" (spec/95_test_vectors.md 2.3). -/
def hello : List Byte :=
  [0x20, 0x5B, 0x0B, 0x78, 0xD1, 0x72, 0xDC, 0x4D, 0x43, 0x40, 0xEC, 0x11, 0xEC, 0x11, 0xEC, 0x11]

theorem test_rsEncodeAll : after (exec .rsEncodeAll (withData .rsEncodeAll hello [] 0 0 0 0))
    (fun t => (t.mem.readRange 0x2000 10, t.res.genDeg)) =
      some (some [0xC4, 0x23, 0x27, 0x77, 0xEB, 0xD7, 0xE7, 0xE2, 0x5D, 0x17], 10) := by decide +kernel

/-- R180's order on the 62 data codewords and 72 ECC codewords of version 5, level Q. -/
theorem test_interleave_order :
    let cw := interleaved 5 .q ((List.range 62).map (BitVec.ofNat 8)) ((List.range 72).map (BitVec.ofNat 8))
    cw.take 8 = [0x00, 0x0F, 0x1E, 0x2E, 0x01, 0x10, 0x1F, 0x2F] ∧
      (cw.drop 56).take 6 = [0x0E, 0x1D, 0x2C, 0x3C, 0x2D, 0x3D] ∧ (cw.drop 62).take 5 = [0, 18, 36, 54, 1] := by
  decide +kernel

theorem test_interleave_bad_config :
    errcodeAfter (exec .interleave { inFlight .interleave with latch := some ⟨0x18, 0, 1, 0, 0, 0⟩ }) =
      some 0x00001802 := by decide

/-- The examples of R190 and R195, and of spec/95_test_vectors.md 2.5. -/
theorem test_mxFunc_modules :
    [drawnModule 1 0 0, drawnModule 1 1 1, drawnModule 1 7 7, drawnModule 1 6 8, drawnModule 1 6 9, drawnModule 1 13 8,
      drawnModule 1 8 0, drawnModule 1 9 9] = [0x0B, 0x0A, 0x0A, 0x0B, 0x0A, 0x0B, 0x04, 0x00] := by decide +kernel

theorem test_mxFunc_bad_config :
    errcodeAfter (exec .mxFunc { inFlight .mxFunc with latch := some ⟨0x20, 41, 1, 0, 0, 0⟩ }) = some 0x00002002 := by
  decide

/-- The example of R200. -/
theorem test_mxPlace_order : (zigzagPath 21).take 3 = [(20, 20), (20, 19), (19, 20)] := by decide

theorem test_mxPlace_sequence : errcodeAfter (exec .mxPlace (inFlight .mxPlace)) = some 0x00002106 := by decide

theorem test_maskEval_sequence : errcodeAfter (exec (.maskEval 7) (inFlight (.maskEval 7))) = some 0x00002806 := by
  decide

theorem test_maskEval_operand_first : errcodeAfter (exec (.maskEval 8) (inFlight (.maskEval 8))) = some 0x00002803 := by
  decide

/-- The example of R231, and a tie (R228). -/
theorem test_maskSearch_choice : smallestMin [1105, 1104, 1295, 1142, 1301, 1266, 1070, 1243] = 6 ∧
    smallestMin [9, 7, 8, 7, 7, 9, 9, 9] = 1 := by decide

theorem test_maskSearch_sequence : errcodeAfter (exec .maskSearch (inFlight .maskSearch)) = some 0x00002906 := by decide

/-- The example of R233. -/
theorem test_maskApply_modules : maskByte 6 20 20 0x08 = 0x08 ∧ maskByte 6 19 20 0x08 = 0x09 ∧
    maskByte 6 0 0 0x0B = 0x0B ∧ maskByte 6 19 20 0x04 = 0x05 ∧ maskByte 6 19 20 0x0C = 0x0C := by decide

theorem test_maskApply_operand : errcodeAfter (exec (.maskApply 8) (inFlight (.maskApply 8))) = some 0x00002A03 := by
  decide

theorem test_bchFmt : after (exec (.bchFmt 6 2) (inFlight .nop)) (·.res.fmtWord) = some 0x2EDA := by decide
theorem test_bchFmt_level : errcodeAfter (exec (.bchFmt 7 4) (inFlight .nop)) = some 0x00003003 := by decide
theorem test_bchVer : after (exec (.bchVer 40) (inFlight .nop)) (·.res.verWord) = some 0x28C69 := by decide
theorem test_bchVer_small : errcodeAfter (exec (.bchVer 6) (inFlight .nop)) = some 0x00003103 := by decide

theorem test_fmtWrite : after (exec (.fmtWrite 6) (afterDraw (.fmtWrite 6) 1 []))
    (fun t => (t.mem.read 0x8008, t.mem.read (0x8008 + 177), t.res.fmtWord)) =
      some (some 0x0C, some 0x0D, 0x2EDA) := by decide +kernel

theorem test_fmtWrite_sequence : errcodeAfter (exec (.fmtWrite 6) (inFlight (.fmtWrite 6))) = some 0x00003206 := by
  decide

theorem test_verWrite : after (exec .verWrite (afterDraw .verWrite 7 []))
    (fun t => (t.mem.read (0x8000 + 34), t.mem.read (0x8000 + 36), t.res.verWord)) =
      some (some 0x0E, some 0x0F, 0x07C94) := by decide +kernel

theorem test_verWrite_small : after (exec .verWrite (afterDraw .verWrite 6 [])) (fun t => (t.mem, t.res.verWord,
    t.res.verDone)) = some ([], 0, true) := by decide

theorem test_encode_bad_config :
    errcodeAfter (exec .encode { inFlight .encode with latch := some ⟨0x3F, 63, 1, 0, 0, 0⟩ }) = some 0x00003F02 := by
  decide

theorem test_encode_unwritten : faultOf (exec .encode (inFlight .encode)) = some .uninitRead := by decide +kernel

/-! ### The host bus -/

theorem test_bus_little_endian :
    after (hostAccess State.reset (wordWrite 0x1000 0x44332211)) (fun t => t.mem) =
      some [(0x1000, 0x11), (0x1001, 0x22), (0x1002, 0x33), (0x1003, 0x44)] := by decide

theorem test_bus_module_nibble :
    after (hostAccess State.reset ⟨0xFA60, .byte, .write 0xFFFFFFAB⟩) (fun t => t.mem) = some [(0xFA60, 0x0B)] := by
  decide

theorem test_bus_edge : faultOf (hostAccess State.reset ⟨0xFA60, .half, .read⟩) = some .busError := by decide
theorem test_bus_uninit : faultOf (hostAccess State.reset ⟨0x1000, .byte, .read⟩) = some .uninitRead := by decide
theorem test_bus_hazard : faultOf (hostAccess (inFlight .nop) ⟨0x1000, .byte, .read⟩) = some .hazard := by decide

/-- The program `DO NOP` of R116, with one poll: STATUS reads 0 at the end (R140). -/
theorem test_do_nop_registers :
    after (hostAccess { State.reset with done := true } (wordWrite 0x00C 0x00000002)) State.status = some 0 := by decide


/-! ### Witnesses: states and operands that meet the hypotheses of the statements

Each theorem is named after the statement of Certificates/Slice0/Obligations.lean whose hypotheses it meets. -/

theorem holds_writeRange (m : Memory) (a : Nat) (bs : List Byte) : Holds (m.writeRange a bs) a bs := by
  intro i hi
  rw [Memory.read_writeRange, if_pos ⟨by omega, by omega⟩, Nat.add_sub_cancel_left]

theorem holds_writeRange_of_lt {m : Memory} {a b : Nat} {bs cs : List Byte} (h : Holds m a bs)
    (hb : a + bs.length ≤ b) : Holds (m.writeRange b cs) a bs := by
  intro i hi
  rw [Memory.read_writeRange, if_neg (by omega), h i hi]

theorem written_of_holds {m : Memory} {a : Nat} {bs : List Byte} (h : Holds m a bs) : Written m a bs.length := by
  intro i hi
  rw [h i hi, List.getElem?_eq_getElem hi]; rfl

theorem nil_wf : Memory.wf [] := List.Pairwise.nil

theorem idleData_wf (dcw ecc : List Byte) (a0 a1 a2 : BitVec 16) (deg : Nat) :
    (idleData dcw ecc a0 a1 a2 deg).mem.wf := Memory.writeRange_wf (Memory.writeRange_wf nil_wf _ _) _ _

theorem idleData_dcw (dcw ecc : List Byte) (a0 a1 a2 : BitVec 16) (deg : Nat) (h : a0.toNat + dcw.length ≤ 4096) :
    Holds (idleData dcw ecc a0 a1 a2 deg).mem (0x1000 + a0.toNat) dcw :=
  holds_writeRange_of_lt (holds_writeRange _ _ _) (by omega)

theorem idleData_ecc (dcw ecc : List Byte) (a0 a1 a2 : BitVec 16) (deg : Nat) :
    Holds (idleData dcw ecc a0 a1 a2 deg).mem (0x2000 + a2.toNat) ecc := holds_writeRange _ _ _

/-- The state of an idle QRENC right after MX_FUNC at version v (R190), with its codewords written (R203). -/
def drawnIdle (v : BitVec 6) : State :=
  { State.reset with
    version := v,
    res := { Results.zero with funcDone := true, mxVersion := v },
    mem := (Memory.writeRange [] 0x3000 (List.replicate (totalCw v.toNat) 0xA5)).writeRange matBase
      (drawnMatrix v.toNat) }

/-- The same with a command in flight. -/
def drawn (v : BitVec 6) (i : Instr) : State := (drawnIdle v).accept (encode i)

theorem drawnIdle_wf (v : BitVec 6) : (drawnIdle v).mem.wf := Memory.writeRange_wf (Memory.writeRange_wf nil_wf _ _) _ _

theorem drawnIdle_symbol {v : BitVec 6} (h : legalVersion v.toNat = true) :
    readSymbol (drawnIdle v).mem (side v.toNat) = some (drawnGrid v.toNat) :=
  readSymbol_drawn (Memory.writeRange_wf nil_wf _ _) h

theorem drawnIdle_module {v : BitVec 6} {r c : Nat} (hr : r < 177) (hc : c < 177) :
    moduleAt (drawnIdle v).mem r c =
      some (if r < side v.toNat ∧ c < side v.toNat then drawnModule v.toNat r c else 0x00) :=
  read_drawn (Memory.writeRange [] 0x3000 (List.replicate (totalCw v.toNat) 0xA5)) v.toNat hr hc

theorem drawnIdle_written {v : BitVec 6} (h : legalVersion v.toNat = true) :
    SymbolWritten (drawnIdle v).mem (side v.toNat) := by
  intro r hr c hc
  have hs := side_le h
  rw [drawnIdle_module (by omega) (by omega)]
  rfl

theorem drawnIdle_cw {v : BitVec 6} (h : totalCw v.toNat ≤ 4096) :
    Holds (drawnIdle v).mem 0x3000 (List.replicate (totalCw v.toNat) 0xA5) :=
  holds_writeRange_of_lt (holds_writeRange _ _ _) (by rw [List.length_replicate]; simp only [matBase]; omega)

theorem drawnIdle_inv {v : BitVec 6} (h : totalCw v.toNat ≤ 4096) : MemoryInv (drawnIdle v).mem := by
  refine ⟨drawnIdle_wf v, fun a b hb => ?_⟩
  rw [drawnIdle, read_drawnMatrix, Memory.read_writeRange, List.length_replicate] at hb
  by_cases h1 : matBase ≤ a ∧ a < matBase + matSize
  · rw [if_pos h1] at hb
    obtain rfl := Option.some.inj hb
    simp only [matBase, matSize] at h1
    exact .inr ⟨by omega, by omega, drawnByte_lt _ _⟩
  · rw [if_neg h1] at hb
    by_cases h2 : 0x3000 ≤ a ∧ a < 0x3000 + totalCw v.toNat
    · exact .inl ⟨by omega, by omega⟩
    · rw [if_neg h2] at hb
      cases hb

/-- Legality of the two ends of the version range (R38). -/
theorem legal_ends : legalVersion 1 = true ∧ legalVersion 7 = true ∧ legalVersion 40 = true := by decide

theorem test_witness_LegalWordsAreTheCommands : decode 0x00CA5308 = .ok (.gfMul 0x53 0xCA) := by decide

theorem test_witness_StepRunsTheLatchedCommand :
    (inFlight .nop).latch = some (State.reset.latchOf 0) ∧ decode (State.reset.latchOf 0).word = .ok .nop ∧
    (inFlight .nop).agenda = [] ∧ { inFlight .nop with agenda := [.engine] }.agenda = [.engine] ∧
    { inFlight .nop with agenda := [.engine] }.latch = some (State.reset.latchOf 0) ∧
    State.reset.latch = none ∧ State.reset.agenda = [] ∧
    { State.reset with agenda := [.engine] }.agenda = [.engine] ∧
    { State.reset with agenda := [.host (wordRead 0)] }.agenda = [.host (wordRead 0)] ∧
    { State.reset with agenda := [.hardReset] }.agenda = [.hardReset] ∧
    { State.reset with agenda := [.secondMaster (wordRead 0)] }.agenda = [.secondMaster (wordRead 0)] := by decide

theorem test_witness_EngineTurnEndsTheFlight :
    (inFlight .nop).latch = some (State.reset.latchOf 0) ∧ (∃ t, engineStep (inFlight .nop) = .next t) ∧
    (State.reset.accept 2).latch = some (State.reset.latchOf 2) ∧ ∃ t, engineStep (State.reset.accept 2) = .next t :=
  ⟨rfl, ⟨_, rfl⟩, rfl, ⟨_, rfl⟩⟩

theorem test_witness_IllegalWordsComplete :
    legalWord 0x00000002 = false ∧ legalWord 0xFFFFFFFF = false ∧ (opField 0x0000003E).toNat = 0x3E ∧
    (opField 0x0000000C).toNat = 0x0C ∧ (opField 0x00000040).toNat = 0x40 ∧ State.reset.latch = none ∧
    (State.reset.accept 2).latch = some (State.reset.latchOf 2) ∧ (State.reset.latchOf 2).word = 2 := by decide

theorem test_witness_CompletionLeavesHostRegisters :
    (∃ t, exec .nop (inFlight .nop) = .next t) ∧ ∃ t, exec (.gfLog 0) (inFlight (.gfLog 0)) = .next t :=
  ⟨⟨_, rfl⟩, ⟨_, rfl⟩⟩

/-- One state for every code of R280 but 0x07, and one for success. -/
theorem test_witness_ErrorsFollowTheTable :
    State.reset.mem.wf ∧
    expectedCode (State.reset.latchOf 2) State.reset = 0x01 ∧
    expectedCode ⟨encode .mxFunc, 41, 1, 0, 0, 0⟩ State.reset = 0x02 ∧
    expectedCode (State.reset.latchOf (encode (.rsGen 31))) State.reset = 0x03 ∧
    expectedCode (State.reset.latchOf (encode (.gfInv 0))) State.reset = 0x04 ∧
    expectedCode (State.reset.latchOf (encode .rsDiv)) State.reset = 0x05 ∧
    expectedCode (State.reset.latchOf (encode .maskSearch)) State.reset = 0x06 ∧
    expectedCode (State.reset.latchOf (encode (.rsGen 30))) State.reset = 0x00 ∧
    ∃ t, engineStep (inFlight (.rsGen 30)) = .next t :=
  ⟨nil_wf, by decide, by decide, by decide, by decide, by decide, by decide, by decide, ⟨_, rfl⟩⟩

/-- A symbol of version 1 that is all free modules, drawn by the host: it has 420 of them outside column 6, and not
208. -/
def overfree : State :=
  { State.reset with
    res := { Results.zero with funcDone := true, mxVersion := 1 },
    mem := Memory.writeRange [] 0x8000 (List.replicate 31329 0) }

theorem overfree_module {r c : Nat} (hr : r < 21) (hc : c < 21) : moduleAt overfree.mem r c = some 0x00 := by
  unfold moduleAt overfree
  rw [Memory.read_writeRange, List.length_replicate, if_pos (by omega), List.getElem?_replicate, if_pos (by omega)]

theorem overfree_freeModules : freeModules overfree.mem 21 = 420 := by
  have h : freeModules overfree.mem 21 = ((List.range 21).map fun _ => (List.range 21).countP fun c => c != 6).sum := by
    unfold freeModules
    refine congrArg List.sum (List.map_congr_left fun r hr => List.countP_congr fun c hc => ?_)
    rw [overfree_module (List.mem_range.1 hr) (List.mem_range.1 hc)]
    simp
  rw [h]; decide +kernel

theorem test_witness_ErrorsFollowTheTable_mismatch :
    overfree.mem.wf ∧ expectedCode (overfree.latchOf (encode .mxPlace)) overfree = 0x07 := by
  refine ⟨Memory.writeRange_wf nil_wf _ _, ?_⟩
  have hw : SymbolWritten overfree.mem 21 := fun r hr c hc => by rw [overfree_module hr hc]; rfl
  have hl : legalWord (encode .mxPlace) = true := by decide
  have hd : decode (encode .mxPlace) = .ok .mxPlace := by decide
  have hs : side (overfree.latchOf (encode .mxPlace)).v = 21 := rfl
  have hb : badConfig (overfree.latchOf (encode .mxPlace)) = false := rfl
  have hq : (notDrawn (overfree.latchOf (encode .mxPlace)) overfree || overfree.res.placed) = false := rfl
  have ht : 8 * totalCw (overfree.latchOf (encode .mxPlace)).v + remBits (overfree.latchOf (encode .mxPlace)).v = 208 :=
    by decide
  unfold expectedCode
  rw [show (overfree.latchOf (encode .mxPlace)).word = encode .mxPlace from rfl, hl, hd]
  simp only [conditions, firstCode, hs, hb, hq, ht, overfree_freeModules, decide_eq_true hw]
  rfl

theorem test_witness_CommandsStopOnlyOnUnwrittenBytes :
    opcode .nop ∉ [0x11, 0x12, 0x13, 0x18, 0x21, 0x28, 0x29, 0x2A, 0x3F] ∧
    opcode .verWrite ∉ [0x11, 0x12, 0x13, 0x18, 0x21, 0x28, 0x29, 0x2A, 0x3F] := by decide

/-- MX_FUNC in flight at a legal version. -/
theorem mxFunc_completes {s : State} (h : legalVersion s.operands.v = true) : ∃ t, exec .mxFunc s = .next t :=
  ⟨_, conclude_of_ok (doMxFunc_eq_ok.2 ⟨h, rfl⟩)⟩

theorem test_witness_CommandsStoreOnlyInTheirSet :
    (inFlight .mxFunc).latch = some (State.reset.latchOf 0x20) ∧
    (∃ t, exec .mxFunc (inFlight .mxFunc) = .next t) ∧ (inFlight .nop).latch = some (State.reset.latchOf 0) ∧
    ∃ t, exec .nop (inFlight .nop) = .next t :=
  ⟨rfl, mxFunc_completes (s := inFlight .mxFunc) legal_ends.1, rfl, ⟨_, rfl⟩⟩

theorem test_witness_ResultRegistersHaveTheirWriters :
    (∃ t, exec .nop (inFlight .nop) = .next t) ∧ opcode .nop ∉ [0x01, 0x08, 0x09, 0x0A, 0x0B] ∧
    opcode .nop ∉ [0x01, 0x10, 0x13, 0x3F] ∧ opcode .nop ∉ [0x01, 0x12] ∧ opcode .nop ∉ [0x01, 0x29, 0x3F] ∧
    opcode .nop ∉ [0x01, 0x20, 0x29, 0x3F] ∧ opcode .nop ∉ [0x01, 0x30, 0x32, 0x3F] ∧
    opcode .nop ∉ [0x01, 0x31, 0x33, 0x3F] ∧ opcode .nop ∉ [0x01, 0x18, 0x3F] ∧ opcode .nop ∉ [0x01, 0x20, 0x3F] ∧
    opcode .nop ∉ [0x01, 0x28, 0x29, 0x3F] ∧ opcode .nop ∉ [0x01, 0x13, 0x3F] ∧
    opcode .nop ∉ [0x01, 0x13, 0x18, 0x3F] ∧ opcode .nop ∉ [0x01, 0x20, 0x21, 0x3F] ∧
    opcode .nop ∉ [0x01, 0x20, 0x2A, 0x3F] ∧ opcode .nop ∉ [0x01, 0x20, 0x32, 0x3F] ∧
    opcode .nop ∉ [0x01, 0x20, 0x33, 0x3F] := ⟨⟨_, rfl⟩, by decide⟩

theorem test_witness_CmdWriteIssues : State.reset.latch = none ∧ (inFlight .nop).latch ≠ none := by decide

theorem test_witness_IrqFollowsDoneAndEnable :
    (2 : Word).getLsbD 1 = true ∧ (0 : Word).getLsbD 0 = false ∧ { State.reset with ie := true, done := true }.irq = true ∧
    { State.reset with ie := true, done := true }.latch = none := by decide

theorem test_witness_RegistersReadTheState : State.reset.latch = none := rfl

theorem test_witness_ReservedBitsAndReadOnlyFields :
    csrListed 0x000 = true ∧ hostWritable 0x000 = false ∧ csrListed 0x2F4 = true ∧ hostWritable 0x2F4 = false ∧
    csrListed 0x014 = true ∧
    { State.reset with agenda := [.host ⟨BitVec.ofNat 16 0x2F4, .word, .read⟩] }.agenda =
      [.host ⟨BitVec.ofNat 16 0x2F4, .word, .read⟩] := by decide

theorem test_witness_HostRegistersTakeWrites : (0xFFFFFFFD : Word).getLsbD 1 = false ∧ (0 : Word).getLsbD 1 = false := by
  decide

theorem test_witness_CsrWritesWhileBusy :
    (inFlight .encode).latch = some (State.reset.latchOf 0x3F) ∧ (1 : Word).getLsbD 1 = false ∧
    (2 : Word).getLsbD 1 = true ∧ csrListed 0x000 = true ∧ hostWritable 0x000 = false ∧ csrListed 0x2F4 = true ∧
    hostWritable 0x2F4 = false := by decide

theorem test_witness_ReadsHaveNoSideEffect :
    (wordRead 0x2F4).op = .read ∧ (∃ t, hostAccess State.reset (wordRead 0x2F4) = .next t) ∧
    (∃ t, hostAccess (inFlight .nop) (wordRead 0x024) = .next t) ∧ State.reset.latch = none ∧
    (csrListed 0x000 = true ∧ resultOffset 0x000 = false) ∧ (csrListed 0x020 = true ∧ resultOffset 0x020 = false) ∧
    (csrListed 0x060 = true ∧ resultOffset 0x060 = false) ∧ (inFlight .nop).latch ≠ none :=
  ⟨rfl, ⟨_, rfl⟩, ⟨_, rfl⟩, rfl, by decide, by decide, by decide, by decide⟩

theorem test_witness_InfoRegistersShowTheTables :
    (¬ (1 ≤ (0 : BitVec 6).toNat ∧ (0 : BitVec 6).toNat ≤ 40) ∧ ¬ (1 ≤ (41 : BitVec 6).toNat ∧ (41 : BitVec 6).toNat ≤ 40)) ∧
    (csrListed 0x060 = true ∧ csrListed 0x080 = true ∧ csrListed 0x0C0 = true ∧ csrListed 0x0D8 = true) ∧
    (1 ≤ State.reset.version.toNat ∧ State.reset.version.toNat ≤ 40) ∧
    1 ≤ (40 : BitVec 6).toNat ∧ (40 : BitVec 6).toNat ≤ 40 := by decide

theorem test_witness_RomTablesAgreeWithTheirFormulas : 1 ≤ 1 ∧ 1 ≤ 40 ∧ 40 ≤ 40 ∧ 2 ≤ 40 := by decide

/-- One access for each of R87's conditions, and one beside the last boundary that is none. -/
theorem test_witness_BusErrorsExactly :
    ErrorAccess ⟨0x4000, .byte, .read⟩ ∧ ErrorAccess ⟨0x7FFF, .byte, .read⟩ ∧ ErrorAccess ⟨0xFA61, .byte, .read⟩ ∧
    ErrorAccess ⟨0x084, .word, .read⟩ ∧ ErrorAccess ⟨0x000, .half, .read⟩ ∧ ErrorAccess ⟨0x1001, .half, .read⟩ ∧
    ErrorAccess ⟨0xFA60, .word, .read⟩ ∧ ¬ ErrorAccess ⟨0xFA60, .byte, .read⟩ ∧ ¬ ErrorAccess ⟨0x3FFC, .word, .read⟩ :=
  ⟨by decide, by decide, by decide, by decide, by decide, by decide, by decide, by decide, by decide⟩

theorem test_witness_HazardsExactly :
    ¬ ErrorAccess ⟨0x1000, .word, .read⟩ ∧ ¬ ErrorAccess ⟨0xFA60, .byte, .write 0⟩ ∧ (inFlight .nop).latch ≠ none := by
  decide

theorem test_witness_UninitReadsExactly :
    State.reset.mem.wf ∧ ¬ ErrorAccess ⟨0x1000, .word, .read⟩ ∧ State.reset.latch = none ∧
    State.reset.mem.read 0x1003 = none := ⟨nil_wf, by decide, rfl, rfl⟩

theorem test_witness_RamAccessesAreLittleEndian :
    (idleData [1, 2, 3, 4] [] 0 0 0 0).mem.wf ∧ ¬ ErrorAccess ⟨0x1000, .word, .read⟩ ∧
    (idleData [1, 2, 3, 4] [] 0 0 0 0).latch = none ∧ Holds (idleData [1, 2, 3, 4] [] 0 0 0 0).mem 0x1000 [1, 2, 3, 4] ∧
    ¬ ErrorAccess ⟨0xFA60, .byte, .read⟩ ∧ overfree.mem.wf ∧ overfree.latch = none ∧ Holds overfree.mem 0xFA60 [0] ∧
    ¬ ErrorAccess ⟨0xFA60, .byte, .write 0xFF⟩ := by
  refine ⟨idleData_wf _ _ _ _ _ _, by decide, rfl, idleData_dcw [1, 2, 3, 4] [] 0 0 0 0 (by decide), by decide,
    Memory.writeRange_wf nil_wf _ _, rfl, ?_, by decide⟩
  intro i hi
  have hi : i = 0 := by simpa using hi
  subst hi
  unfold overfree
  rw [Memory.read_writeRange, List.length_replicate, if_pos (by omega), List.getElem?_replicate, if_pos (by omega)]
  rfl

theorem test_witness_WrittenBytesStayWritten :
    (∃ t, step overfree = .next t) ∧ (overfree.mem.read 0x8000).isSome = true :=
  ⟨⟨_, rfl⟩, by have := overfree_module (r := 0) (c := 0) (by decide) (by decide); exact Option.isSome_iff_exists.2 ⟨_, this⟩⟩

theorem test_witness_HardResetState :
    (∃ t, t = State.reset) ∧ ∃ s es t, s.agenda = .hardReset :: es ∧ step s = .next t :=
  ⟨⟨_, rfl⟩, { inFlight .nop with agenda := [.hardReset] }, [], _, rfl, rfl⟩

theorem test_witness_SoftResetClearsEveryCsr :
    (2 : Word).getLsbD 1 = true ∧ (inFlight .mxFunc).latch ≠ none ∧ State.reset.latch = none ∧
    (∃ t, hostAccess (inFlight .mxFunc) (wordWrite 0x004 2) = .next t) ∧ csrListed 0x000 = true :=
  ⟨by decide, by decide, rfl, ⟨_, rfl⟩, by decide⟩

/-- MX_FUNC in flight, whose checks pass; MX_FUNC whose check fails; and MX_PLACE over a written symbol. -/
theorem test_witness_AbortForgetsTheWriteSet :
    (2 : Word).getLsbD 1 = true ∧ (inFlight .mxFunc).mem.wf ∧ (inFlight .mxFunc).latch = some (State.reset.latchOf 0x20) ∧
    decode (State.reset.latchOf 0x20).word = .ok .mxFunc ∧
    expectedCode (State.reset.latchOf 0x20) (inFlight .mxFunc) = 0x00 ∧
    StoreSet .mxFunc (State.reset.latchOf 0x20) (inFlight .mxFunc) 0x8000 ∧
    StoreSet .mxFunc (State.reset.latchOf 0x20) (inFlight .mxFunc) 0xFA60 ∧
    (∃ t, hostAccess (inFlight .mxFunc) (wordWrite 0x004 2) = .next t) ∧
    expectedCode ⟨encode .mxFunc, 41, 1, 0, 0, 0⟩ State.reset ≠ 0x00 ∧
    (drawn 1 .mxPlace).mem.wf ∧ SymbolWritten (drawn 1 .mxPlace).mem 21 ∧
    ∃ t, hostAccess (drawn 1 .mxPlace) (wordWrite 0x004 2) = .next t :=
  ⟨by decide, nil_wf, rfl, by decide, by decide, ⟨by decide, by decide⟩, ⟨by decide, by decide⟩, ⟨_, rfl⟩,
    by decide, drawnIdle_wf 1, drawnIdle_written (v := 1) legal_ends.1, ⟨_, rfl⟩⟩

/-! The states the invariants are met in, each away from reset. -/

theorem test_witness_StepKeepsMemoryInv : MemoryInv (drawn 1 .nop).mem ∧ ∃ t, step (drawn 1 .nop) = .next t :=
  ⟨drawnIdle_inv (v := 1) (by decide), ⟨_, rfl⟩⟩

theorem generator_of_setGen (n : Fin 31) (hn : n.val ≠ 0) : GeneratorInv (Results.zero.setGen n) := by
  refine .inr ?_
  have h : ∀ n : Fin 31, n.val ≠ 0 → (1 ≤ (Results.zero.setGen n).genDeg.toNat ∧
      (Results.zero.setGen n).genDeg.toNat ≤ 30 ∧
      (Results.zero.setGen n).gen.toList.getD (Results.zero.setGen n).genDeg.toNat 0 = 0x01) ∧
      ∀ i : Fin 31, (Results.zero.setGen n).genDeg.toNat < i.val →
        (Results.zero.setGen n).gen.toList.getD i.val 0 = 0x00 := by decide +kernel
  obtain ⟨⟨h1, h2, h3⟩, h4⟩ := h n hn
  refine ⟨h1, h2, h3, fun i hi => ?_⟩
  by_cases h : i < 31
  · exact h4 ⟨i, h⟩ hi
  · rw [List.getD_eq_getElem?_getD, List.getElem?_eq_none (by simpa using h)]; rfl

theorem test_witness_StepKeepsResultInv :
    GeneratorInv (withData .rsDiv [] [] 0 0 0 30).res ∧ ScoreInv (withData .rsDiv [] [] 0 0 0 30).res ∧
    ∃ t, step (withData .rsDiv [] [] 0 0 0 30) = .next t := by
  refine ⟨generator_of_setGen 30 (by decide), ⟨by decide, by decide⟩, ?_⟩
  have h : ∃ t, doRsDiv (withData .rsDiv [] [] 0 0 0 30).operands (withData .rsDiv [] [] 0 0 0 30) = .ok t :=
    ⟨_, doRsDiv_eq_ok.2 ⟨by decide, [], by decide, rfl⟩⟩
  obtain ⟨t, ht⟩ := h
  exact ⟨_, conclude_of_ok (op := 0x11) (s := withData .rsDiv [] [] 0 0 0 30) ht⟩

theorem drawnIdle_stage {v : BitVec 6} (h : legalVersion v.toNat = true) : StageInv (drawnIdle v) := by
  have hv := legalVersion_iff.1 h
  unfold StageInv
  refine ⟨fun hf => (by cases hf), fun _ => ⟨hv.1, hv.2, fun i hi => ?_⟩, fun _ => rfl, rfl⟩
  show ((drawnIdle v).mem.read (0x8000 + i)).isSome = true
  rw [drawnIdle, read_drawnMatrix, if_pos (by simp only [matBase, matSize]; omega)]; rfl

theorem test_witness_StepKeepsStageInv : StageInv (drawnIdle 40) ∧ ∃ t, step (drawnIdle 40) = .next t :=
  ⟨drawnIdle_stage legal_ends.2.2, ⟨_, rfl⟩⟩

theorem test_witness_StepKeepsHandshakeInv : HandshakeInv (inFlight .clear) ∧ ∃ t, step (inFlight .clear) = .next t :=
  ⟨⟨fun o h => by cases h; exact ⟨rfl, rfl⟩, by decide⟩, ⟨_, rfl⟩⟩

theorem test_witness_ControlAndGf : (0x01 : Byte) ≠ 0 ∧ (0xFF : Byte) ≠ 0 := by decide

theorem test_witness_GfFieldLaws : (0x01 : Byte) ≠ 0 ∧ (0xFF : Byte) ≠ 0 ∧ 254 < 255 ∧ gfExp 254 = 0x8E := by decide +kernel

theorem test_witness_RsGenBuildsTheGenerator :
    1 ≤ (1 : Byte).toNat ∧ (1 : Byte).toNat ≤ 30 ∧ 1 ≤ (30 : Byte).toNat ∧ (30 : Byte).toNat ≤ 30 := by decide

/-- Every range of R156 at its bound: a0 + a1 = 4096, a2 + n = 4096, a1 + n = 255. -/
theorem test_witness_RsDivLeavesTheRemainder :
    let s := withData .rsDiv (List.replicate 252 0x5A) [] 3844 252 4093 3
    let o := (idleData (List.replicate 252 0x5A) [] 3844 252 4093 3).latchOf (encode .rsDiv)
    s.mem.wf ∧ GeneratorInv s.res ∧ s.latch = some o ∧ s.res.genDeg ≠ 0 ∧ o.a0.toNat + o.a1.toNat ≤ 4096 ∧
      o.a2.toNat + s.res.genDeg.toNat ≤ 4096 ∧ o.a1.toNat + s.res.genDeg.toNat ≤ 255 ∧
      (List.replicate 252 (0x5A : Byte)).length = o.a1.toNat ∧
      Holds s.mem (0x1000 + o.a0.toNat) (List.replicate 252 0x5A) :=
  ⟨idleData_wf (List.replicate 252 0x5A) [] 3844 252 4093 3, generator_of_setGen 3 (by decide), rfl, by decide, by decide, by decide, by decide,
    List.length_replicate, idleData_dcw (List.replicate 252 0x5A) [] 3844 252 4093 3 (by rw [List.length_replicate]; decide)⟩

theorem test_witness_RsSyndComputesTheValues :
    let s := withData (.rsSynd 3) (List.replicate 252 0x5A) [1, 2, 3] 3844 252 4093 0
    let o := (idleData (List.replicate 252 0x5A) [1, 2, 3] 3844 252 4093 0).latchOf (encode (.rsSynd 3))
    s.mem.wf ∧ s.latch = some o ∧ o.a0.toNat + o.a1.toNat ≤ 4096 ∧ o.a2.toNat + (3 : Byte).toNat ≤ 4096 ∧
      o.a1.toNat + (3 : Byte).toNat ≤ 255 ∧ (List.replicate 252 (0x5A : Byte)).length = o.a1.toNat ∧
      Holds s.mem (0x1000 + o.a0.toNat) (List.replicate 252 0x5A) ∧ Holds s.mem (0x2000 + o.a2.toNat) [1, 2, 3] :=
  ⟨idleData_wf (List.replicate 252 0x5A) [1, 2, 3] 3844 252 4093 0, rfl, by decide, by decide, by decide,
    List.length_replicate,
    idleData_dcw (List.replicate 252 0x5A) [1, 2, 3] 3844 252 4093 0 (by rw [List.length_replicate]; decide),
    idleData_ecc (List.replicate 252 0x5A) _ 3844 252 4093 0⟩

/-- The least and the greatest degree. -/
theorem test_witness_RsSyndComputesTheValues_degrees :
    (1 ≤ (1 : Byte).toNat ∧ (1 : Byte).toNat ≤ 30 ∧ 254 + (1 : Byte).toNat ≤ 255) ∧
    1 ≤ (30 : Byte).toNat ∧ (30 : Byte).toNat ≤ 30 ∧ 225 + (30 : Byte).toNat ≤ 255 := by decide

theorem test_witness_CodewordsHaveZeroSyndromes :
    let s := idleData (List.replicate 225 0x5A) [] 3871 225 4066 0
    s.mem.wf ∧ s.latch = none ∧ s.arg0.toNat + s.arg1.toNat ≤ 4096 ∧ s.arg2.toNat + (30 : Byte).toNat ≤ 4096 ∧
      s.arg1.toNat + (30 : Byte).toNat ≤ 255 ∧ Written s.mem (0x1000 + s.arg0.toNat) s.arg1.toNat :=
  ⟨idleData_wf (List.replicate 225 0x5A) [] 3871 225 4066 0, rfl, by decide, by decide, by decide,
    written_of_holds (bs := List.replicate 225 0x5A) (idleData_dcw (List.replicate 225 0x5A) [] 3871 225 4066 0 (by rw [List.length_replicate]; decide))⟩

theorem hello_holds (i : Instr) : Holds (withData i hello [] 0 0 0 0).mem 0x1000 hello :=
  idleData_dcw hello [] 0 0 0 0 (by decide)

theorem hello_written (i : Instr) : Written (withData i hello [] 0 0 0 0).mem 0x1000 16 := written_of_holds (hello_holds i)

theorem test_witness_RsEncodeAllDividesEveryBlock :
    let s := withData .rsEncodeAll hello [] 0 0 0 0
    let o := State.reset.latchOf (encode .rsEncodeAll)
    s.mem.wf ∧ s.latch = some o ∧ legalVersion o.v = true ∧ hello.length = dataCw o.v o.e ∧ Holds s.mem 0x1000 hello :=
  ⟨idleData_wf hello [] 0 0 0 0, rfl, by decide, by decide, hello_holds _⟩

theorem test_witness_InterleaveFollowsTheClosedForm :
    let s := withData .interleave hello (List.replicate 10 0xC4) 0 0 0 0
    let o := State.reset.latchOf (encode .interleave)
    s.mem.wf ∧ s.latch = some o ∧ legalVersion o.v = true ∧ Written s.mem 0x1000 (dataCw o.v o.e) ∧
      Written s.mem 0x2000 (numBlocks o.v o.e * eccPerBlk o.v o.e) :=
  ⟨idleData_wf hello _ 0 0 0 0, rfl, by decide, written_of_holds (idleData_dcw hello _ 0 0 0 0 (by decide)),
    written_of_holds (bs := List.replicate 10 0xC4) (idleData_ecc hello _ 0 0 0 0)⟩

theorem test_witness_MxFuncDrawsThePatterns :
    (inFlight .mxFunc).latch = some (State.reset.latchOf 0x20) ∧ legalVersion (State.reset.latchOf 0x20).v = true ∧
    21 = 4 * (State.reset.latchOf 0x20).v + 17 ∧ (∃ t, exec .mxFunc (inFlight .mxFunc) = .next t) ∧
    (drawn 40 .mxFunc).latch = some ((drawnIdle 40).latchOf 0x20) ∧ legalVersion ((drawnIdle 40).latchOf 0x20).v = true ∧
    177 = 4 * ((drawnIdle 40).latchOf 0x20).v + 17 ∧ ∃ t, exec .mxFunc (drawn 40 .mxFunc) = .next t :=
  ⟨rfl, legal_ends.1, rfl, mxFunc_completes (s := inFlight .mxFunc) legal_ends.1, rfl, legal_ends.2.2, rfl,
    mxFunc_completes (s := drawn 40 .mxFunc) legal_ends.2.2⟩

theorem test_witness_ZigzagOrder : legalVersion 1 = true ∧ legalVersion 40 = true := by decide

/-- MX_PLACE's hypotheses right after MX_FUNC, for both ends of the version range. -/
theorem test_witness_MxPlaceStoresTheBits : ∀ v ∈ ([1, 40] : List (BitVec 6)),
    (drawn v .mxPlace).mem.wf ∧ (drawn v .mxPlace).latch = some ((drawnIdle v).latchOf 0x21) ∧
    legalVersion v.toNat = true ∧ (drawn v .mxPlace).res.funcDone = true ∧ (drawn v .mxPlace).res.mxVersion = v ∧
    (drawn v .mxPlace).res.placed = false ∧
    readSymbol (drawn v .mxPlace).mem (side v.toNat) = some (drawnGrid v.toNat) ∧
    (zigzag (side v.toNat) (drawnGrid v.toNat)).length = 8 * totalCw v.toNat + remBits v.toNat ∧
    Holds (drawn v .mxPlace).mem 0x3000 (List.replicate (totalCw v.toNat) 0xA5) := by
  intro v hv
  have h : legalVersion v.toNat = true ∧ totalCw v.toNat ≤ 4096 := by
    have : ∀ v ∈ ([1, 40] : List (BitVec 6)), legalVersion v.toNat = true ∧ totalCw v.toNat ≤ 4096 := by decide
    exact this v hv
  exact ⟨drawnIdle_wf v, rfl, h.1, rfl, rfl, rfl, drawnIdle_symbol h.1, length_zigzag_drawn h.1, drawnIdle_cw h.2⟩

theorem test_witness_CandidateColours :
    legalVersion 1 = true ∧ (drawnGrid 1).length = side 1 ∧ (∀ row ∈ drawnGrid 1, row.length = side 1) ∧
    legalVersion 40 = true ∧ (drawnGrid 40).length = side 40 ∧ (∀ row ∈ drawnGrid 40, row.length = side 40) ∧ 7 < 8 ∧
    Params.default.scoreReserved = .masked ∧
    { Params.default with scoreReserved := .formatDrawn }.scoreReserved = .formatDrawn ∧ 7 ≤ 40 ∧
    (∀ i < 15, (9, 9) ≠ fmtPosA i ∧ (9, 9) ≠ fmtPosB (side 1) i) ∧
    ∀ i < 18, (9, 9) ≠ verPosA (side 40) i ∧ (9, 9) ≠ verPosB (side 40) i :=
  ⟨legal_ends.1, length_drawnGrid 1, fun _ h => length_row_drawnGrid h, legal_ends.2.2, length_drawnGrid 40,
    fun _ h => length_row_drawnGrid h, by decide, rfl, rfl, by decide, by decide, by decide⟩

theorem square_replicate (n : Nat) (b : Bool) : Square n (List.replicate n (List.replicate n b)) :=
  ⟨List.length_replicate, fun row h => by rw [List.eq_of_mem_replicate h, List.length_replicate]⟩

theorem test_witness_RunAndBlockPenalties : 1 ≤ 1 ∧ Square 1 (List.replicate 1 (List.replicate 1 true)) ∧
    Square 177 (List.replicate 177 (List.replicate 177 true)) := ⟨by decide, square_replicate _ _, square_replicate _ _⟩

theorem test_witness_CoreAndBalancePenalties : 7 ≤ 7 ∧ Square 7 (List.replicate 7 (List.replicate 7 false)) ∧
    { Params.default with rule3Mode := .window11 }.rule3Mode = .window11 ∧
    { Params.default with rule3Mode := .coreEitherSide }.rule3Mode = .coreEitherSide :=
  ⟨by decide, square_replicate _ _, rfl, rfl⟩

theorem test_witness_PenaltiesNeverWrap : legalVersion 1 = true ∧ Square (side 1) (List.replicate 21 (List.replicate 21 true)) ∧
    legalVersion 40 = true ∧ Square (side 40) (List.replicate 177 (List.replicate 177 true)) :=
  ⟨legal_ends.1, square_replicate _ _, legal_ends.2.2, square_replicate _ _⟩

theorem test_witness_MaskEvalScoresOneMask : ∀ k ∈ ([0, 7] : List Byte),
    (drawn 40 (.maskEval k)).latch = some ((drawnIdle 40).latchOf (encode (.maskEval k))) ∧
    legalVersion ((drawnIdle 40).latchOf (encode (.maskEval k))).v = true ∧ k.toNat ≤ 7 ∧
    (drawn 40 (.maskEval k)).res.funcDone = true ∧ (drawn 40 (.maskEval k)).res.mxVersion = 40 ∧
    readSymbol (drawn 40 (.maskEval k)).mem (side 40) = some (drawnGrid 40) := by
  intro k hk
  have h : ∀ k ∈ ([0, 7] : List Byte), k.toNat ≤ 7 := by decide
  exact ⟨rfl, legal_ends.2.2, h k hk, rfl, rfl, drawnIdle_symbol (v := 40) legal_ends.2.2⟩

/-- MASK_EVAL on a drawn symbol. -/
theorem maskEval_completes {s : State} {k : Byte} {g : Grid} (hv : legalVersion s.operands.v = true)
    (hk : immNat k ≤ 7) (hd : s.res.funcDone = true ∧ s.res.mxVersion = s.operands.version)
    (hg : readSymbol s.mem (side s.operands.v) = some g) : ∃ u, exec (.maskEval k) s = .next u :=
  ⟨_, conclude_of_ok (op := 0x28) (doMaskEval_eq_ok.2 ⟨hv, hk, hd, g, hg, rfl⟩)⟩

theorem test_witness_MaskSearchChoosesTheFirstMinimum :
    (drawn 1 .maskSearch).latch = some ((drawnIdle 1).latchOf 0x29) ∧ (drawn 1 .maskSearch).res.funcDone = true ∧
    (drawn 1 .maskSearch).res.mxVersion = ((drawnIdle 1).latchOf 0x29).version ∧
    readSymbol (drawn 1 .maskSearch).mem (side 1) = some (drawnGrid 1) ∧
    ∃ u, exec (.maskEval (BitVec.ofNat 8 7)) (drawn 1 .maskSearch) = .next u := by
  refine ⟨rfl, rfl, rfl, drawnIdle_symbol (v := 1) legal_ends.1, ?_⟩
  exact maskEval_completes (s := drawn 1 .maskSearch) legal_ends.1 (by decide) ⟨rfl, rfl⟩
    (drawnIdle_symbol (v := 1) legal_ends.1)

theorem test_witness_MaskApplyInvertsMaskableModules :
    MemoryInv (drawn 40 (.maskApply 7)).mem ∧
    (drawn 40 (.maskApply 7)).latch = some ((drawnIdle 40).latchOf (encode (.maskApply 7))) ∧
    legalVersion ((drawnIdle 40).latchOf (encode (.maskApply 7))).v = true ∧ (7 : Byte).toNat ≤ 7 ∧
    (drawn 40 (.maskApply 7)).res.funcDone = true ∧
    (drawn 40 (.maskApply 7)).res.mxVersion = ((drawnIdle 40).latchOf (encode (.maskApply 7))).version ∧
    SymbolWritten (drawn 40 (.maskApply 7)).mem (side 40) :=
  ⟨drawnIdle_inv (v := 40) (by decide), rfl, legal_ends.2.2, by decide, rfl, rfl, drawnIdle_written (v := 40) legal_ends.2.2⟩

theorem test_witness_MaskApplyTwiceRestores :
    MemoryInv (drawnIdle 1).mem ∧ (drawnIdle 1).latch = none ∧ legalVersion (drawnIdle 1).version.toNat = true ∧
    (7 : Byte).toNat ≤ 7 ∧ (0 : Byte).toNat ≤ 7 ∧ (drawnIdle 1).res.funcDone = true ∧
    (drawnIdle 1).res.mxVersion = (drawnIdle 1).version ∧ SymbolWritten (drawnIdle 1).mem (side 1) ∧
    moduleAt (drawnIdle 1).mem 0 0 = some 0x0B ∧ (0x0B : Byte) &&& 0x06 = 0x02 := by
  refine ⟨drawnIdle_inv (v := 1) (by decide), rfl, legal_ends.1, by decide, by decide, rfl, rfl,
    drawnIdle_written (v := 1) legal_ends.1, ?_, by decide⟩
  rw [drawnIdle_module (by decide) (by decide), if_pos (by decide)]
  decide +kernel

theorem test_witness_BchCommandsFollowTheTables :
    (0 : Byte).toNat ≤ 7 ∧ (7 : Byte).toNat ≤ 7 ∧ (3 : Byte).toNat ≤ 3 ∧ 7 ≤ (7 : Byte).toNat ∧ (40 : Byte).toNat ≤ 40 ∧
    0x77C4 ∈ formatTable.flatten ∧ 0x083B ∈ formatTable.flatten ∧ 0x77C4 ≠ 0x083B := by decide

theorem test_witness_InformationWritesStoreBothCopies : ∀ v ∈ ([1, 6, 7, 40] : List (BitVec 6)),
    (drawn v .verWrite).latch = some ((drawnIdle v).latchOf 0x33) ∧ legalVersion ((drawnIdle v).latchOf 0x33).v = true ∧
    (drawn v .verWrite).res.funcDone = true ∧
    (drawn v .verWrite).res.mxVersion = ((drawnIdle v).latchOf 0x33).version ∧ (7 : Byte).toNat ≤ 7 := by
  intro v hv
  have h : ∀ v ∈ ([1, 6, 7, 40] : List (BitVec 6)), legalVersion v.toNat = true := by decide
  exact ⟨rfl, h v hv, rfl, rfl, by decide⟩

theorem test_witness_EncodeCompletes :
    let s := withData .encode hello [] 0 0 0 0
    let o := State.reset.latchOf (encode .encode)
    s.mem.wf ∧ s.latch = some o ∧ legalVersion o.v = true ∧ Written s.mem 0x1000 (dataCw o.v o.e) :=
  ⟨idleData_wf hello [] 0 0 0 0, rfl, by decide, hello_written .encode⟩

theorem test_witness_EncodeEqualsTheCommandSequence :
    let s := idleData hello [] 0 0 0 0
    s.mem.wf ∧ s.latch = none ∧ legalVersion s.version.toNat = true ∧
      Written s.mem 0x1000 (dataCw s.version.toNat (eccLevel s.ecl)) :=
  ⟨idleData_wf hello [] 0 0 0 0, rfl, by decide, hello_written .nop⟩

/-- Two states that differ in their operands, their ECC RAM and a result register. -/
theorem test_witness_EncodeDependsOnItsInputsAlone :
    let s := withData .encode hello [] 0 0 0 0
    let s' := withData .encode hello [9] 0 5 7 2
    let o := State.reset.latchOf (encode .encode)
    let o' := (idleData hello [9] 0 5 7 2).latchOf (encode .encode)
    s.mem.wf ∧ s'.mem.wf ∧ s.latch = some o ∧ s'.latch = some o' ∧ o.version = o'.version ∧ o.ecl = o'.ecl ∧
      s.params = s'.params ∧ legalVersion o.v = true ∧ Written s.mem 0x1000 (dataCw o.v o.e) ∧
      ∀ i < dataCw o.v o.e, s'.mem.read (0x1000 + i) = s.mem.read (0x1000 + i) := by
  refine ⟨idleData_wf hello [] 0 0 0 0, idleData_wf hello [9] 0 5 7 2, rfl, rfl, rfl, rfl, rfl, by decide,
    hello_written .encode, ?_⟩
  intro i hi
  have hi : i < hello.length := hi
  rw [hello_holds .encode i hi]
  exact idleData_dcw hello [9] 0 5 7 2 (by decide) i hi

end Sys2Proof.Tests
end

section
/-! PROOFS. The schedule of the two agents (spec/00_scope.md R9). -/

namespace Sys2Proof.Machine

open Sys2Proof

/-- Settles O4: each head of the agenda picks its own equation of `step`, and the engine's turn is settled by the
latch, which taking an event off the agenda leaves as it was. -/
theorem stepRunsTheLatchedCommand : Obligations.StepRunsTheLatchedCommand := by
  intro s es
  refine ⟨fun o i hl hd => ⟨fun ha => ?_, fun ha => ?_⟩, fun hl => ⟨fun ha => ?_, fun ha => ?_⟩,
    fun _ => step_of_host, step_of_hardReset, fun _ => step_of_secondMaster⟩
  · have hl' : (s.withAgenda es).latch = some o := by rwa [State.withAgenda_latch]
    rw [step_of_engine ha, engineStep_of_decoded hl' hd]
  · rw [step_of_nil ha, engineStep_of_decoded hl hd]
  · have hl' : (s.withAgenda es).latch = none := by rwa [State.withAgenda_latch]
    rw [step_of_engine ha, engineStep_of_latch_none hl']
  · rw [step_of_nil ha, engineStep_of_latch_none hl]

end Sys2Proof.Machine
end

section
/-! PROOFS. What a completing command leaves alone (R35, R36, R40 to R43, R62, R118, R141, R270). -/

namespace Sys2Proof.Machine

open Sys2Proof

/-- Settles O7: a success commits result registers and memory only, an error nothing, and the completion record that
follows touches ERRCODE, DONE and the latch. -/
theorem completionLeavesHostRegisters : Obligations.CompletionLeavesHostRegisters := by
  intro i s t h
  rcases exec_eq_next.1 h with ⟨u, hu, rfl⟩ | ⟨e, -, rfl⟩
  · obtain ⟨r, m, rfl⟩ := outcome_commits i s u hu
    simp
  · simp

/-- A successful outcome is a completed command with code 0x00. -/
theorem exec_of_outcome_ok {i : Instr} {s t : State} (h : outcome i s = .ok t) :
    exec i s = .next (t.complete (opcode i) 0x00) := exec_eq_next.2 (.inl ⟨t, h, rfl⟩)

/-- Settles O11: an error writes no register; a success is, command by command, the named updates of its rule, and
each of them leaves every other register. -/
theorem resultRegistersHaveTheirWriters : Obligations.ResultRegistersHaveTheirWriters := by
  intro i s t h
  rcases exec_eq_next.1 h with ⟨u, hu, rfl⟩ | ⟨e, -, rfl⟩
  case inr => simp
  rw [State.complete_res]
  cases i with
  | nop => cases hu; simp
  | clear => cases hu; simp [opcode]
  | gfMul a b => cases hu; simp [opcode]
  | gfExp k => cases hu; simp [opcode]
  | gfLog a => obtain ⟨-, hu⟩ := checked_eq_ok.1 hu; cases hu; simp [opcode]
  | gfInv a => obtain ⟨-, hu⟩ := checked_eq_ok.1 hu; cases hu; simp [opcode]
  | rsGen n => obtain ⟨-, rfl⟩ := doRsGen_eq_ok.1 hu; simp [opcode]
  | rsDiv => obtain ⟨-, _, -, rfl⟩ := doRsDiv_eq_ok.1 hu; simp
  | rsSynd n => obtain ⟨-, _, -, _, -, rfl⟩ := doRsSynd_eq_ok.1 hu; simp [opcode]
  | rsEncodeAll => obtain ⟨-, _, -, rfl⟩ := doRsEncodeAll_eq_ok.1 hu; simp [opcode]
  | interleave => obtain ⟨-, _, -, _, -, rfl⟩ := doInterleave_eq_ok.1 hu; simp [opcode]
  | mxFunc => obtain ⟨-, rfl⟩ := doMxFunc_eq_ok.1 hu; simp [opcode]
  | mxPlace => obtain ⟨-, -, _, -, -, _, -, rfl⟩ := doMxPlace_eq_ok.1 hu; simp [opcode]
  | maskEval k => obtain ⟨-, -, -, _, -, rfl⟩ := doMaskEval_eq_ok.1 hu; simp [opcode]
  | maskSearch => obtain ⟨-, -, _, -, rfl⟩ := doMaskSearch_eq_ok.1 hu; simp [opcode]
  | maskApply k => obtain ⟨-, -, -, -, rfl⟩ := doMaskApply_eq_ok.1 hu; simp [opcode]
  | bchFmt k e => obtain ⟨-, rfl⟩ := doBchFmt_eq_ok.1 hu; simp [opcode]
  | bchVer v => obtain ⟨-, rfl⟩ := doBchVer_eq_ok.1 hu; simp [opcode]
  | fmtWrite k => obtain ⟨-, -, -, rfl⟩ := doFmtWrite_eq_ok.1 hu; simp [opcode]
  | verWrite => obtain ⟨-, -, ⟨-, rfl⟩ | ⟨-, rfl⟩⟩ := doVerWrite_eq_ok.1 hu <;> simp [opcode]
  | encode =>
    obtain ⟨-, s1, h1, s2, h2, s3, h3, s4, h4, s5, h5, s6, h6, s7, h7, h8⟩ := doEncode_eq_ok.1 hu
    obtain ⟨-, _, -, rfl⟩ := doRsEncodeAll_eq_ok.1 h1
    obtain ⟨-, _, -, _, -, rfl⟩ := doInterleave_eq_ok.1 h2
    obtain ⟨-, rfl⟩ := doMxFunc_eq_ok.1 h3
    obtain ⟨-, -, _, -, -, _, -, rfl⟩ := doMxPlace_eq_ok.1 h4
    obtain ⟨-, -, _, -, rfl⟩ := doMaskSearch_eq_ok.1 h5
    obtain ⟨-, -, -, -, rfl⟩ := doMaskApply_eq_ok.1 h6
    obtain ⟨-, -, -, rfl⟩ := doFmtWrite_eq_ok.1 h7
    obtain ⟨-, -, ⟨-, rfl⟩ | ⟨-, rfl⟩⟩ := doVerWrite_eq_ok.1 h8 <;> simp [opcode]

end Sys2Proof.Machine
end

section
/-! PROOFS. What every step keeps of the result registers and of memory: the ways the machine stores, the eight
commands ENCODE runs (R270), and the principle that carries a predicate from the single writes to a whole step. -/

namespace Sys2Proof.Machine

open Sys2Proof Sys2Proof.Safety

/-! ### Every command from the single ones -/

/-- Commands one after the other, on the same latched operands and with no completion in between (R270). -/
def runAll : List Instr → State → CmdOutcome
  | [], s => .ok s
  | i :: is, s => (outcome i s).andThen (runAll is)

@[simp] theorem runAll_nil (s : State) : runAll [] s = .ok s := rfl

theorem runAll_cons_eq_ok {i : Instr} {is : List Instr} {s t : State} :
    runAll (i :: is) s = .ok t ↔ ∃ u, outcome i s = .ok u ∧ runAll is u = .ok t := andThen_eq_ok

/-- The commands ENCODE runs, the mask being the one MASK_SEARCH chose (R270). -/
def encodeSteps (k : Byte) : List Instr :=
  [.rsEncodeAll, .interleave, .mxFunc, .mxPlace, .maskSearch, .maskApply k, .fmtWrite k, .verWrite]

/-- A command's writes leave the operands. -/
theorem operands_of_commits {s t : State} {r : CmdOutcome} (hc : Commits s r) (h : r = .ok t) :
    t.operands = s.operands := by
  obtain ⟨res, m, rfl⟩ := hc t h
  exact State.operands_commit s res m

theorem immNat_setWidth_mask (k : BitVec 3) : immNat (k.setWidth 8) = k.toNat := by
  have := k.isLt
  rw [immNat, BitVec.toNat_setWidth]; omega

theorem runAll_of_encode {s t : State} (h : outcome .encode s = .ok t) : ∃ k, runAll (encodeSteps k) s = .ok t := by
  obtain ⟨-, s1, h1, s2, h2, s3, h3, s4, h4, s5, h5, s6, h6, s7, h7, h8⟩ := doEncode_eq_ok.1 h
  have e1 : s1.operands = s.operands := operands_of_commits (doRsEncodeAll_commits _ _) h1
  have e2 : s2.operands = s.operands := (operands_of_commits (doInterleave_commits _ _) h2).trans e1
  have e3 : s3.operands = s.operands := (operands_of_commits (doMxFunc_commits _ _) h3).trans e2
  have e4 : s4.operands = s.operands := (operands_of_commits (doMxPlace_commits _ _) h4).trans e3
  have e5 : s5.operands = s.operands := (operands_of_commits (doMaskSearch_commits _ _) h5).trans e4
  have e6 : s6.operands = s.operands := (operands_of_commits (doMaskApply_commits _ _ _) h6).trans e5
  have e7 : s7.operands = s.operands := (operands_of_commits (doFmtWrite_commits _ _ _) h7).trans e6
  have ek : s6.res.chosenMask = s5.res.chosenMask := by
    obtain ⟨-, -, -, -, rfl⟩ := doMaskApply_eq_ok.1 h6; rfl
  refine ⟨s5.res.chosenMask.setWidth 8, ?_⟩
  simp only [encodeSteps, runAll_cons_eq_ok, outcome, immNat_setWidth_mask]
  refine ⟨s1, h1, s2, by rwa [e1], s3, by rwa [e2], s4, by rwa [e3], s5, by rwa [e4], s6, by rwa [e5],
    s7, ?_, t, ?_, rfl⟩
  · rwa [e6, ← ek]
  · rwa [e7]

/-- What every single command keeps, every command keeps. -/
theorem outcome_keeps {P : State → Prop} (hP : ∀ i s t, i ≠ .encode → outcome i s = .ok t → P s → P t) {i : Instr}
    {s t : State} (h : outcome i s = .ok t) (hs : P s) : P t := by
  have hall : ∀ is : List Instr, .encode ∉ is → ∀ s, runAll is s = .ok t → P s → P t := by
    intro is
    induction is with
    | nil => rintro - s ⟨⟩ hs; exact hs
    | cons j is ih =>
      intro hn s h hs
      obtain ⟨u, hu, ht⟩ := runAll_cons_eq_ok.1 h
      exact ih (fun hm => hn (List.mem_cons_of_mem _ hm)) u ht
        (hP j s u (fun hj => hn (hj ▸ List.mem_cons_self)) hu hs)
  by_cases hi : i = .encode
  · subst hi
    obtain ⟨k, hk⟩ := runAll_of_encode h
    exact hall _ (by simp [encodeSteps]) s hk hs
  · exact hP i s t hi h hs

/-! ### The ways the machine stores -/

/-- A store of one command other than ENCODE, or of the host (R81, R98, R86): to a range of the buffers, to a range of
the matrix RAM, to every module in place, or to single modules; module bytes get bits[7:4] = 0. -/
inductive Stores (m m' : Memory) : Prop where
  | nothing (h : m' = m)
  | buffer (a : Nat) (bs : List Byte) (ha : 0x1000 ≤ a) (hb : a + bs.length ≤ 0x4000) (h : m' = m.writeRange a bs)
  | matrix (a : Nat) (bs : List Byte) (ha : 0x8000 ≤ a) (hb : a + bs.length ≤ 0xFA61)
      (hbs : ∀ b ∈ bs, b.toNat < 16) (h : m' = m.writeRange a bs)
  | inPlace (f : Nat → Byte → Byte) (hf : ∀ a (b : Byte), b.toNat < 16 → (f a b).toNat < 16) (h : m' = m.modify f)
  | modules (ws : List Host.Cell) (hws : ∀ c ∈ ws, 0x8000 ≤ c.1 ∧ c.1 ≤ 0xFA60 ∧ c.2.toNat < 16)
      (h : m' = m.writeEach ws)

theorem matrix_of_inSymbol {sd a : Nat} (h : inSymbol sd a = true) : 0x8000 ≤ a ∧ a ≤ 0xFA60 := by
  simp only [inSymbol, isMatrix, Bool.and_eq_true, decide_eq_true_eq] at h
  simp only [matBase, matSize] at h
  omega

theorem stores_placeModules (m : Memory) (sd : Nat) (ps : List (Nat × Bool)) : Stores m (placeModules m sd ps) := by
  refine .inPlace _ (fun a b hb => ?_) rfl
  repeat' split
  · exact placeBit_lt _ _
  · exact hb
  · exact hb

theorem stores_maskModules (m : Memory) (sd k : Nat) : Stores m (maskModules m sd k) := by
  refine .inPlace _ (fun a b hb => ?_) rfl
  split
  · exact maskByte_lt _ _ _ hb
  · exact hb

theorem stores_formatModules (m : Memory) {v : Nat} (hv : legalVersion v = true) (w : BitVec 15) :
    Stores m (m.writeEach (formatModules (side v) w)) := by
  refine .modules _ (fun c hc => ?_) rfl
  obtain ⟨h1, h2⟩ := matrix_of_inSymbol (inSymbol_formatModules (side_le hv) hc)
  obtain ⟨p, -, rfl⟩ := mem_formatModules hc
  exact ⟨h1, h2, moduleByte_lt _ _ _⟩

theorem stores_versionModules (m : Memory) {v : Nat} (hv : legalVersion v = true) (w : BitVec 18) :
    Stores m (m.writeEach (versionModules (side v) w)) := by
  refine .modules _ (fun c hc => ?_) rfl
  obtain ⟨h1, h2⟩ := matrix_of_inSymbol (inSymbol_versionModules (side_le hv) hc)
  obtain ⟨p, -, rfl⟩ := mem_versionModules hc
  exact ⟨h1, h2, moduleByte_lt _ _ _⟩

theorem stores_drawnMatrix (m : Memory) (v : Nat) : Stores m (m.writeRange matBase (drawnMatrix v)) := by
  refine .matrix matBase _ (by simp [matBase]) (by simp [matBase, matSize]) (fun b hb => ?_) rfl
  obtain ⟨x, -, rfl⟩ := List.mem_map.1 hb
  exact drawnByte_lt v x

/-- The success of every command but ENCODE is one such store (R98, R312). -/
theorem stores_of_outcome {i : Instr} {s t : State} (hi : i ≠ .encode) (h : outcome i s = .ok t) :
    Stores s.mem t.mem := by
  cases i with
  | nop => cases h; exact .nothing rfl
  | clear => cases h; exact .nothing rfl
  | gfMul a b => cases h; exact .nothing rfl
  | gfExp k => cases h; exact .nothing rfl
  | gfLog a => obtain ⟨-, h⟩ := checked_eq_ok.1 h; cases h; exact .nothing rfl
  | gfInv a => obtain ⟨-, h⟩ := checked_eq_ok.1 h; cases h; exact .nothing rfl
  | rsGen n => obtain ⟨-, rfl⟩ := doRsGen_eq_ok.1 h; exact .nothing rfl
  | rsSynd n => obtain ⟨-, _, -, _, -, rfl⟩ := doRsSynd_eq_ok.1 h; exact .nothing rfl
  | maskEval k => obtain ⟨-, -, -, _, -, rfl⟩ := doMaskEval_eq_ok.1 h; exact .nothing rfl
  | maskSearch => obtain ⟨-, -, _, -, rfl⟩ := doMaskSearch_eq_ok.1 h; exact .nothing rfl
  | bchFmt k e => obtain ⟨-, rfl⟩ := doBchFmt_eq_ok.1 h; exact .nothing rfl
  | bchVer v => obtain ⟨-, rfl⟩ := doBchVer_eq_ok.1 h; exact .nothing rfl
  | rsDiv =>
    obtain ⟨⟨-, -, hr, -⟩, data, -, rfl⟩ := doRsDiv_eq_ok.1 h
    refine .buffer _ _ ?_ ?_ rfl <;> simp only [eccBase, length_rsRemainder, length_divisorTail] <;> omega
  | rsEncodeAll =>
    obtain ⟨hv, data, -, rfl⟩ := doRsEncodeAll_eq_ok.1 h
    have hfit := codewords_fit hv s.operands.e
    refine .buffer _ _ ?_ ?_ rfl <;> simp only [eccBase, length_blockEcc hv] <;> omega
  | interleave =>
    obtain ⟨hv, data, hd, ecc, he, rfl⟩ := doInterleave_eq_ok.1 h
    have hfit := codewords_fit hv s.operands.e
    have hl := length_interleaved hv s.operands.e (Memory.length_of_readRange hd) (Memory.length_of_readRange he)
    refine .buffer _ _ ?_ ?_ rfl <;> simp only [cwBase, hl] <;> omega
  | mxFunc => obtain ⟨-, rfl⟩ := doMxFunc_eq_ok.1 h; rw [State.commit_mem]; exact stores_drawnMatrix _ _
  | mxPlace => obtain ⟨-, -, _, -, -, _, -, rfl⟩ := doMxPlace_eq_ok.1 h; exact stores_placeModules _ _ _
  | maskApply k => obtain ⟨-, -, -, -, rfl⟩ := doMaskApply_eq_ok.1 h; exact stores_maskModules _ _ _
  | fmtWrite k =>
    obtain ⟨hv, -, -, rfl⟩ := doFmtWrite_eq_ok.1 h
    rw [State.commit_mem]; exact stores_formatModules _ hv _
  | verWrite =>
    obtain ⟨hv, -, ⟨-, rfl⟩ | ⟨-, rfl⟩⟩ := doVerWrite_eq_ok.1 h
    · rw [State.commit_mem]; exact stores_versionModules _ hv _
    · exact .nothing rfl
  | encode => exact absurd rfl hi

/-- What the host stores of a byte of the matrix RAM has bits[7:4] = 0 (R86). -/
theorem ramByte_matrix_lt (b : Byte) : (ramByte .matrix b).toNat < 16 := by
  rw [ramByte, if_pos rfl, BitVec.toNat_and]
  exact Nat.lt_succ_of_le Nat.and_le_right

/-- A host write of RAM bytes is such a store (R82, R86). -/
theorem stores_of_ramWrite {a : Access} {r : Region} {off n : Nat} (ha : accessTarget a = some (.ram r off n))
    (m : Memory) (w : Word) : Stores m (m.writeRange off ((toBytes w n).map (ramByte r))) := by
  obtain ⟨-, hn, -, hr, h1, h2⟩ := accessTarget_eq_ram.1 ha
  have hpos := (sizeBytes_pos a.size).1
  have hlen : ((toBytes w n).map (ramByte r)).length = n := by simp [toBytes]
  rcases regionOf_ram h1 hr with ⟨hm, hlo, -⟩ | ⟨rfl, hlo, -⟩
  · have hhi : off + n - 1 ≤ 0x3FFF := by rcases regionOf_ram h2 hr with ⟨-, -, h⟩ | ⟨h, -⟩ <;> tauto
    exact .buffer _ _ hlo (by omega) rfl
  · have hhi : off + n - 1 ≤ 0xFA60 := by rcases regionOf_ram h2 hr with ⟨h, -⟩ | ⟨-, -, h⟩ <;> tauto
    refine .matrix _ _ hlo (by omega) (fun b hb => ?_) rfl
    obtain ⟨c, -, rfl⟩ := List.mem_map.1 hb
    exact ramByte_matrix_lt c

/-! ### From the single writes to a step -/

/-- `P` speaks of the result registers and of memory, and each single way to change them keeps it: a command other
than ENCODE, a host store, the soft reset's forgetting of some bytes and the hard reset's of all. -/
structure KeptByWrites (P : State → Prop) : Prop where
  congr : ∀ {s t : State}, t.res = s.res → t.mem = s.mem → P s → P t
  command : ∀ {i : Instr} {s t : State}, i ≠ .encode → outcome i s = .ok t → P s → P t
  hostStore : ∀ {s : State} {m : Memory}, Stores s.mem m → P s → P (s.commit s.res m)
  softReset : ∀ {s : State} (spans : List Span), P s → P (s.commit Results.zero (s.mem.erase spans))
  hardReset : P State.reset

/-- A step's effect, the agenda aside (R9). -/
theorem exists_stepEffect {s t : State} (h : step s = .next t) : ∃ es, StepEffect (s.withAgenda es) t := by
  rcases step_effect h with ⟨-, he⟩ | ⟨-, es, -, he⟩
  · exact ⟨s.agenda, he⟩
  · exact ⟨es, he⟩

theorem afterCsrRead_res (s : State) (c : Csr) : (afterCsrRead s c).res = s.res := by
  unfold afterCsrRead; split <;> rfl

theorem afterCsrRead_mem (s : State) (c : Csr) : (afterCsrRead s c).mem = s.mem := by
  unfold afterCsrRead; split <;> rfl

/-- A host write to a register is the soft reset, or it touches no result register and no RAM byte (R31, R33). -/
theorem hostWriteCsr_cases (s : State) (c : Csr) (w : Word) :
    (c = .ctrl ∧ w.getLsbD 1 = true ∧ hostWriteCsr s c w = s.softReset) ∨
    ((hostWriteCsr s c w).res = s.res ∧ (hostWriteCsr s c w).mem = s.mem) := by
  unfold hostWriteCsr
  split
  · next h => exact .inl ⟨h.1, h.2, rfl⟩
  · refine .inr ?_
    cases c
    case cmd => simp only [writeCsr, State.issue]; split <;> exact ⟨rfl, rfl⟩
    all_goals exact ⟨rfl, rfl⟩

theorem exec_keeps {P : State → Prop} (hP : KeptByWrites P) {i : Instr} {s t : State} (h : exec i s = .next t)
    (hs : P s) : P t := by
  rcases exec_eq_next.1 h with ⟨u, hu, rfl⟩ | ⟨e, -, rfl⟩
  · exact hP.congr (s := u) rfl rfl (outcome_keeps (fun i s t => hP.command) hu hs)
  · exact hP.congr (s := s) rfl rfl hs

theorem step_keeps {P : State → Prop} (hP : KeptByWrites P) {s t : State} (h : step s = .next t) (hs : P s) : P t := by
  obtain ⟨es, he⟩ := exists_stepEffect h
  have hu : P (s.withAgenda es) := hP.congr (s := s) rfl rfl hs
  cases he with
  | idle h => exact h ▸ hu
  | command o i _ _ h => exact exec_keeps hP h hu
  | illegal o _ h => exact hP.congr (by rw [h]; rfl) (by rw [h]; rfl) hu
  | csrRead c h => exact hP.congr (by rw [h]; exact afterCsrRead_res _ c) (by rw [h]; exact afterCsrRead_mem _ c) hu
  | csrWrite c w h =>
    rcases hostWriteCsr_cases (s.withAgenda es) c w with ⟨-, -, hc⟩ | ⟨hr, hm⟩
    · exact hP.congr (by rw [h, hc]; rfl) (by rw [h, hc]; rfl) (hP.softReset (abortSpans (s.withAgenda es)) hu)
    · exact hP.congr (by rw [h]; exact hr) (by rw [h]; exact hm) hu
  | ramRead d h => exact hP.congr (by rw [h]; rfl) (by rw [h]; rfl) hu
  | ramWrite r off n w a ha _ h =>
    exact hP.congr (by rw [h]; rfl) (by rw [h]; rfl) (hP.hostStore (stores_of_ramWrite ha _ w) hu)
  | hardReset h => exact hP.congr (by rw [h]; rfl) (by rw [h]; rfl) hP.hardReset

end Sys2Proof.Machine
end

section
/-! PROOFS. The register map (R31): one offset for each register, and what a word access there answers. -/

namespace Sys2Proof.Machine

open Sys2Proof Sys2Proof.Safety

/-- The offset of each register (R31). -/
def csrOffset : Csr → Nat
  | .id => 0x000
  | .ctrl => 0x004
  | .cmd => 0x008
  | .status => 0x00C
  | .errcode => 0x010
  | .config => 0x014
  | .arg0 => 0x018
  | .arg1 => 0x01C
  | .arg2 => 0x020
  | .gfRes => 0x024
  | .genDeg => 0x028
  | .chosen => 0x02C
  | .fmtWord => 0x030
  | .verWord => 0x034
  | .cwLen => 0x038
  | .mxVersion => 0x03C
  | .penTotal k => 0x040 + 4 * k
  | .infoSide => 0x060
  | .infoTotalCw => 0x064
  | .infoDataCw => 0x068
  | .infoEccPerBlk => 0x06C
  | .infoG1 => 0x070
  | .infoG2 => 0x074
  | .infoRemBits => 0x078
  | .infoNumBlocks => 0x07C
  | .alignN => 0x080
  | .alignPos i => 0x0C0 + 4 * i
  | .penRule k j => 0x100 + 16 * k + 4 * j
  | .gen i => 0x200 + 4 * i
  | .synd j => 0x280 + 4 * j

theorem csrAt_csrOffset (c : Csr) : csrAt (csrOffset c) = some c := by
  cases c with
  | penTotal k => revert k; decide
  | alignPos i => revert i; decide
  | penRule k j => revert k j; decide
  | gen i => revert i; decide
  | synd j => revert j; decide
  | _ => rfl

theorem csrOffset_of_csrAt {off : Nat} {c : Csr} (h : csrAt off = some c) : off = csrOffset c := by
  unfold csrAt at h
  split at h
  case isFalse => cases h
  case isTrue h4 =>
    rcases Option.or_eq_some_iff.1 h with h | ⟨-, h⟩
    · unfold csrSingle at h
      split at h <;> cases h <;> rfl
    · unfold csrArray at h
      split_ifs at h <;> cases h <;> simp only [csrOffset, Fin.val_ofNat] <;> omega

/-- The listed offsets are the registers' (R31). -/
theorem csrListed_iff {off : Nat} : csrListed off = true ↔ ∃ c, off = csrOffset c := by
  constructor
  · intro h
    have hb : off % 4 = 0 ∧ off < 4 * 0xBE := by
      simp only [csrListed, Bool.and_eq_true, Bool.or_eq_true, beq_iff_eq, decide_eq_true_eq] at h
      omega
    have hall : ∀ k < 0xBE, csrListed (4 * k) = true → (csrAt (4 * k)).isSome = true := by decide +kernel
    have h4 : off = 4 * (off / 4) := by omega
    rw [h4] at h ⊢
    obtain ⟨c, hc⟩ := Option.isSome_iff_exists.1 (hall (off / 4) (by omega) h)
    exact ⟨c, csrOffset_of_csrAt hc⟩
  · rintro ⟨c, rfl⟩
    cases c with
    | penTotal k => revert k; decide
    | alignPos i => revert i; decide
    | penRule k j => revert k j; decide
    | gen i => revert i; decide
    | synd j => revert j; decide
    | _ => rfl

theorem csrOffset_lt (c : Csr) : csrOffset c < 0x1000 ∧ csrOffset c % 4 = 0 := by
  have h := csrListed_iff.2 ⟨c, rfl⟩
  simp only [csrListed, Bool.and_eq_true, Bool.or_eq_true, beq_iff_eq, decide_eq_true_eq] at h
  omega

/-- A register is accessed as an aligned word at its offset and in no other way (R83, R84). -/
theorem access_of_csr {a : Access} {c : Csr} (h : accessTarget a = some (.csr c)) :
    a = ⟨BitVec.ofNat 16 (csrOffset c), .word, a.op⟩ := by
  obtain ⟨-, hs, -, hc⟩ := accessTarget_eq_csr.1 h
  obtain ⟨addr, size, op⟩ := a
  have haddr : addr = BitVec.ofNat 16 (csrOffset c) := by rw [← csrOffset_of_csrAt hc]; simp
  cases size with
  | word => rw [haddr]
  | byte => cases hs
  | half => cases hs

/-- What a word access at a register's offset answers. -/
theorem hostAccess_csr (s : State) (c : Csr) (op : AccessOp) :
    hostAccess s ⟨BitVec.ofNat 16 (csrOffset c), .word, op⟩ = csrAccess s c op :=
  hostAccess_word op (csrOffset_lt c).1 (csrOffset_lt c).2 (csrAt_csrOffset c)

theorem hostAccess_wordWrite (s : State) (c : Csr) (w : Word) :
    hostAccess s (wordWrite (csrOffset c) w) = .next ((hostWriteCsr s c w).answer .written) := hostAccess_csr s c _

theorem readData_csrOffset (s : State) (c : Csr) : readData s (csrOffset c) = some (csrReadData s c) := by
  have h : hostAccess s (wordRead (csrOffset c)) = .next ((afterCsrRead s c).answer (.data (csrReadData s c))) :=
    hostAccess_csr s c _
  simp only [readData, h, State.answer_reply]

/-- A register of an idle QRENC, and one that is no result CSR at any time, reads its field (R321). -/
theorem readData_of_idle {s : State} {c : Csr} (h : s.latch = none ∨ isResultCsr c = false) :
    readData s (csrOffset c) = some (readCsr s c) := by
  rw [readData_csrOffset, csrReadData]
  rcases h with h | h <;> simp [h, State.busy]

end Sys2Proof.Machine
end

section
/-! PROOFS. The memory invariant (R56, R60, R81, R86, R98): the canonical form, the RAMs' offsets and the module bytes,
and that a written byte stays written. -/

namespace Sys2Proof.Machine

open Sys2Proof Sys2Proof.Safety

/-- A byte that the RAMs can hold at an offset (R56, R81). -/
def RamCell (c : Host.Cell) : Prop :=
  (0x1000 ≤ c.1 ∧ c.1 ≤ 0x3FFF) ∨ (0x8000 ≤ c.1 ∧ c.1 ≤ 0xFA60 ∧ c.2.toNat < 16)

/-- The invariant, cell by cell of the list. -/
theorem memoryInv_iff {m : Memory} : MemoryInv m ↔ m.wf ∧ ∀ c ∈ m, RamCell c := by
  constructor
  · rintro ⟨hw, h⟩
    exact ⟨hw, fun c hc => h c.1 c.2 (Memory.read_of_mem hw hc)⟩
  · rintro ⟨hw, h⟩
    exact ⟨hw, fun a b hr => h (a, b) (Memory.mem_of_read hr)⟩

theorem memoryInv_of_stores {m m' : Memory} (h : Stores m m') (hm : MemoryInv m) : MemoryInv m' := by
  obtain ⟨hw, hc⟩ := memoryInv_iff.1 hm
  refine memoryInv_iff.2 ?_
  cases h with
  | nothing h => exact h ▸ ⟨hw, hc⟩
  | buffer a bs ha hb h =>
    subst h
    refine ⟨Memory.writeRange_wf hw a bs, fun c h => ?_⟩
    rcases Memory.mem_writeRange h with ⟨h, -⟩ | ⟨h1, h2, -⟩
    · exact hc c h
    · exact .inl ⟨by omega, by omega⟩
  | matrix a bs ha hb hbs h =>
    subst h
    refine ⟨Memory.writeRange_wf hw a bs, fun c h => ?_⟩
    rcases Memory.mem_writeRange h with ⟨h, -⟩ | ⟨h1, h2, h3⟩
    · exact hc c h
    · exact .inr ⟨by omega, by omega, hbs _ h3⟩
  | inPlace f hf h =>
    subst h
    refine ⟨Memory.modify_wf hw f, fun c h => ?_⟩
    obtain ⟨b, hb, he⟩ := Memory.mem_modify h
    rcases hc _ hb with h1 | ⟨h1, h2, h3⟩
    · exact .inl h1
    · exact .inr ⟨h1, h2, he ▸ hf c.1 b h3⟩
  | modules ws hws h =>
    subst h
    refine ⟨Memory.writeEach_wf hw ws, fun c h => ?_⟩
    rcases Memory.mem_writeEach h with h | h
    · exact .inr (hws c h)
    · exact hc c h

theorem memoryInv_erase {m : Memory} (spans : List Span) (hm : MemoryInv m) : MemoryInv (m.erase spans) := by
  obtain ⟨hw, hc⟩ := memoryInv_iff.1 hm
  exact memoryInv_iff.2 ⟨Memory.erase_wf hw spans, fun c h => hc c (Memory.mem_erase h)⟩

theorem memoryInv_nil : MemoryInv [] := memoryInv_iff.2 ⟨.nil, by simp⟩

theorem memoryInv_keptByWrites : KeptByWrites fun s => MemoryInv s.mem where
  congr _ hm h := by rwa [hm]
  command hi ho h := memoryInv_of_stores (stores_of_outcome hi ho) h
  hostStore hst h := memoryInv_of_stores hst h
  softReset spans h := memoryInv_erase spans h
  hardReset := memoryInv_nil

/-- Settles O30: the invariant holds cell by cell, and every store puts canonical RAM cells into the memory. -/
theorem stepKeepsMemoryInv : Obligations.StepKeepsMemoryInv := by
  intro s t hs h
  exact step_keeps memoryInv_keptByWrites h hs

/-! ### Written bytes -/

namespace Memory

theorem isSome_read_write {m : Memory} (x : Nat) (b : Byte) {a : Nat} (ha : (m.read a).isSome = true) :
    ((m.write x b).read a).isSome = true := by
  rw [read_write]
  split
  · rfl
  · exact ha

theorem isSome_read_writeEach {m : Memory} (ws : List Host.Cell) {a : Nat} (ha : (m.read a).isSome = true) :
    ((m.writeEach ws).read a).isSome = true := by
  induction ws generalizing m with
  | nil => exact ha
  | cons w ws ih => exact ih (isSome_read_write w.1 w.2 ha)

theorem isSome_read_writeRange {m : Memory} (x : Nat) (bs : List Byte) {a : Nat} (ha : (m.read a).isSome = true) :
    ((m.writeRange x bs).read a).isSome = true := by
  rw [read_writeRange]
  split
  · rw [List.getElem?_eq_getElem (by omega)]; rfl
  · exact ha

end Memory

/-- No store makes a byte unwritten (R60). -/
theorem isSome_read_of_stores {m m' : Memory} (h : Stores m m') {a : Nat} (ha : (m.read a).isSome = true) :
    (m'.read a).isSome = true := by
  cases h with
  | nothing h => rwa [h]
  | buffer x bs _ _ h => rw [h]; exact Memory.isSome_read_writeRange x bs ha
  | matrix x bs _ _ _ h => rw [h]; exact Memory.isSome_read_writeRange x bs ha
  | inPlace f _ h => rwa [h, Memory.read_modify, Option.isSome_map]
  | modules ws _ h => rw [h]; exact Memory.isSome_read_writeEach ws ha

theorem isSome_read_of_exec {i : Instr} {s t : State} (h : exec i s = .next t) {a : Nat}
    (ha : (s.mem.read a).isSome = true) : (t.mem.read a).isSome = true := by
  rcases exec_eq_next.1 h with ⟨u, hu, rfl⟩ | ⟨e, -, rfl⟩
  · rw [State.complete_mem]
    exact outcome_keeps (P := fun s => (s.mem.read a).isSome = true)
      (fun i s t hi ho hs => isSome_read_of_stores (stores_of_outcome hi ho) hs) hu ha
  · exact ha

theorem isSome_read_of_engineStep {s t : State} (h : engineStep s = .next t) {a : Nat}
    (ha : (s.mem.read a).isSome = true) : (t.mem.read a).isSome = true := by
  rcases engineStep_cases s with ⟨-, he⟩ | ⟨o, i, -, -, he⟩ | ⟨o, -, he⟩
  · rw [he] at h; cases h; exact ha
  · exact isSome_read_of_exec (he ▸ h) ha
  · rw [he] at h; cases h; exact ha

/-- A soft reset of an idle QRENC forgets no byte (R312). -/
theorem softReset_mem_of_idle {s : State} (h : s.latch = none) : s.softReset.mem = s.mem := by
  simp [State.softReset, abortSpans, h]

/-- A host access makes a byte unwritten only as a soft reset that aborts a command (R312). -/
theorem isSome_read_of_hostAccess {s t : State} {acc : Access} (h : hostAccess s acc = .next t) {a : Nat}
    (ha : (s.mem.read a).isSome = true) :
    (t.mem.read a).isSome = true ∨ ∃ w, acc = wordWrite 0x004 w ∧ w.getLsbD 1 = true ∧ s.latch ≠ none := by
  rcases hostAccess_cases s acc with ⟨f, he⟩ | ⟨c, -, -, he⟩ | ⟨c, w, hc, hw, he⟩ | ⟨r, off, n, bs, -, -, -, he⟩ |
    ⟨r, off, n, w, hr, -, -, he⟩ <;> rw [he] at h <;> cases h
  · left; rwa [State.answer_mem, afterCsrRead_mem]
  · rcases hostWriteCsr_cases s c w with ⟨rfl, hb, hs⟩ | ⟨-, hm⟩
    · by_cases hl : s.latch = none
      · left; rwa [State.answer_mem, hs, softReset_mem_of_idle hl]
      · exact .inr ⟨w, by rw [access_of_csr hc, hw]; rfl, hb, hl⟩
    · left; rwa [State.answer_mem, hm]
  · exact .inl ha
  · exact .inl (isSome_read_of_stores (stores_of_ramWrite hr s.mem w) ha)

/-- Settles O25: every store keeps the written bytes, so only the agenda's reset input and an aborting soft reset are
left. -/
theorem writtenBytesStayWritten : Obligations.WrittenBytesStayWritten := by
  intro s t a h ha
  cases hg : s.agenda with
  | nil => rw [step_of_nil hg] at h; exact .inl (isSome_read_of_engineStep h ha)
  | cons e es =>
    cases e with
    | host acc =>
      rw [step_of_host hg] at h
      rcases isSome_read_of_hostAccess h ha with ht | ⟨w, rfl, hw, hl⟩
      · exact .inl ht
      · exact .inr (.inr ⟨es, w, rfl, hw, hl⟩)
    | engine => rw [step_of_engine hg] at h; exact .inl (isSome_read_of_engineStep h ha)
    | hardReset => exact .inr (.inl ⟨es, rfl⟩)
    | secondMaster acc => rw [step_of_secondMaster hg] at h; cases h

end Sys2Proof.Machine
end

section
/-! PROOFS. The handshake invariant (R34, R35, R117, R280). -/

namespace Sys2Proof.Machine

open Sys2Proof Sys2Proof.Safety

/-- With no command in flight only the error code is left to check. -/
theorem handshakeInv_of_idle {s : State} (hl : s.latch = none) (he : s.errCode.toNat ≤ 0x07) : HandshakeInv s :=
  ⟨fun o ho => absurd (hl.symm.trans ho) (by simp), he⟩

/-- The handshake stands in the latch, CMD, DONE, which may fall, and ERRCODE.CODE. -/
theorem handshakeInv_congr {s t : State} (hl : t.latch = s.latch) (hc : t.cmd = s.cmd)
    (hd : s.done = false → t.done = false) (he : t.errCode = s.errCode) (h : HandshakeInv s) : HandshakeInv t := by
  refine ⟨fun o ho => ?_, he ▸ h.2⟩
  obtain ⟨hcmd, hdone⟩ := h.1 o (hl ▸ ho)
  exact ⟨hc.trans hcmd, hd hdone⟩

theorem errNumber_le (e : ErrCode) : (errNumber e).toNat ≤ 0x07 := by cases e <;> decide

/-- A completing command leaves no command in flight, and a code of R280. -/
theorem handshakeInv_of_exec {i : Instr} {s t : State} (h : exec i s = .next t) : HandshakeInv t := by
  rcases exec_eq_next.1 h with ⟨u, -, rfl⟩ | ⟨e, -, rfl⟩
  · exact handshakeInv_of_idle rfl (Nat.zero_le 7)
  · exact handshakeInv_of_idle rfl (errNumber_le e)

/-- A CMD write is accepted, which latches the word CMD then shows, or discarded (R34, R117). -/
theorem handshakeInv_issue {s : State} (w : Word) (h : HandshakeInv s) : HandshakeInv (s.issue w) := by
  unfold State.issue
  split
  · exact handshakeInv_congr rfl rfl id rfl h
  · exact ⟨fun o ho => by cases ho; exact ⟨rfl, rfl⟩, h.2⟩

theorem handshakeInv_writeCsr {s : State} (c : Csr) (w : Word) (h : HandshakeInv s) :
    HandshakeInv (writeCsr s c w) := by
  cases c with
  | cmd => exact handshakeInv_issue w h
  | status => exact handshakeInv_congr (s := s) rfl rfl (fun hd => by simp [writeCsr, State.writeStatus, hd]) rfl h
  | _ => exact handshakeInv_congr (s := s) rfl rfl id rfl h

theorem handshakeInv_hostWriteCsr {s : State} (c : Csr) (w : Word) (h : HandshakeInv s) :
    HandshakeInv (hostWriteCsr s c w) := by
  unfold hostWriteCsr
  split
  · exact handshakeInv_of_idle rfl (Nat.zero_le 7)
  · exact handshakeInv_writeCsr c w h

theorem handshakeInv_afterCsrRead {s : State} (c : Csr) (h : HandshakeInv s) : HandshakeInv (afterCsrRead s c) := by
  unfold afterCsrRead
  split
  · exact handshakeInv_congr rfl rfl id rfl h
  · exact h

/-- Settles O33: a completion and a reset leave the latch empty, an acceptance writes latch, CMD and DONE together, and
every other effect leaves the four. -/
theorem stepKeepsHandshakeInv : Obligations.StepKeepsHandshakeInv := by
  intro s t hs h
  obtain ⟨es, he⟩ := exists_stepEffect h
  have hu : HandshakeInv (s.withAgenda es) := hs
  cases he with
  | idle h => exact h ▸ hu
  | command o i _ _ h => exact handshakeInv_of_exec h
  | illegal o _ h => exact h ▸ handshakeInv_of_idle rfl (by simp)
  | csrRead c h => exact h ▸ handshakeInv_congr rfl rfl id rfl (handshakeInv_afterCsrRead c hu)
  | csrWrite c w h => exact h ▸ handshakeInv_congr rfl rfl id rfl (handshakeInv_hostWriteCsr c w hu)
  | ramRead d h => exact h ▸ handshakeInv_congr rfl rfl id rfl hu
  | ramWrite r off n w a _ _ h => exact h ▸ handshakeInv_congr rfl rfl id rfl hu
  | hardReset h => exact h ▸ handshakeInv_of_idle rfl (Nat.zero_le 7)

end Sys2Proof.Machine
end

section
/-! PROOFS. The stage invariant (R36, R42, R121, R141, R190). -/

namespace Sys2Proof.Machine

open Sys2Proof Sys2Proof.Safety

/-- No matrix stage after MX_FUNC is done (R36). -/
def NoLaterFlag (r : Results) : Prop :=
  r.placed = false ∧ r.searched = false ∧ r.masked = false ∧ r.fmtDone = false ∧ r.verDone = false

/-- The stage flags are false, as after CLEAR and reset. -/
theorem stageInv_of_zero {s : State} (h : s.res = Results.zero) : StageInv s := by
  unfold StageInv
  rw [h]
  exact ⟨fun _ => rfl, fun hf => (by cases hf), fun hf => (by simp [Results.zero] at hf), rfl⟩

/-- A drawn symbol meets the invariant: a legal version in MX_VERSION and a matrix RAM written throughout. -/
theorem stageInv_of_drawn {s : State} (hf : s.res.funcDone = true)
    (hv : 1 ≤ s.res.mxVersion.toNat ∧ s.res.mxVersion.toNat ≤ 40) (hw : Written s.mem 0x8000 31329)
    (hc : s.res.chosenValid = s.res.searched) : StageInv s :=
  ⟨fun h => absurd (hf.symm.trans h) (by simp), fun _ => ⟨hv.1, hv.2, hw⟩, fun _ => hf, hc⟩

theorem written_of_stores {m m' : Memory} (h : Stores m m') {a n : Nat} (hw : Written m a n) : Written m' a n :=
  fun i hi => isSome_read_of_stores h (hw i hi)

/-- Writes that keep FUNC_DONE, MX_VERSION and the agreement of VALID and SEARCHED, and raise a later flag only on a
drawn symbol. -/
theorem stageInv_of_stores {s t : State} (h : StageInv s) (hm : Stores s.mem t.mem)
    (hv : t.res.mxVersion = s.res.mxVersion ∧ t.res.funcDone = s.res.funcDone)
    (hc : t.res.chosenValid = t.res.searched)
    (hl : s.res.funcDone = false → NoLaterFlag t.res) : StageInv t := by
  obtain ⟨h0, h1, -, -⟩ := h
  obtain ⟨hv, hf⟩ := hv
  unfold StageInv
  rw [hv, hf]
  refine ⟨h0, fun hd => ?_, fun hlater => ?_, hc⟩
  · obtain ⟨hlo, hhi, hw⟩ := h1 hd
    exact ⟨hlo, hhi, written_of_stores hm hw⟩
  · by_contra hd
    obtain ⟨h1, h2, h3, h4, h5⟩ := hl (by simpa using hd)
    simp [h1, h2, h3, h4, h5] at hlater

theorem noLaterFlag_of_stageInv {s : State} (h : StageInv s) (hf : s.res.funcDone = false) : NoLaterFlag s.res := by
  obtain ⟨-, -, h2, -⟩ := h
  simpa [NoLaterFlag, hf, not_or] using h2

/-- MX_FUNC writes the whole matrix RAM (R190). -/
theorem written_drawnMatrix (m : Memory) (v : Nat) :
    Written (m.writeRange matBase (drawnMatrix v)) 0x8000 31329 := by
  intro i hi
  rw [read_drawnMatrix, if_pos (by simp only [matBase, matSize]; omega)]; rfl

/-- A command that writes none of the flags, by R36's list, keeps the invariant. -/
theorem stageInv_of_frame {i : Instr} {s t : State} (hi : opcode i ∉ [0x01, 0x20, 0x21, 0x29, 0x2A, 0x32, 0x33, 0x3F])
    (h : outcome i s = .ok t) (hm : Stores s.mem t.mem) (hs : StageInv s) : StageInv t := by
  obtain ⟨-, -, -, -, hchosen, -, -, -, hfunc, -, -, -, hplaced, hmasked, hfmt, hver⟩ :=
    resultRegistersHaveTheirWriters _ _ _ (exec_of_outcome_ok h)
  have hn : ∀ ops : List Byte, ops ⊆ [0x01, 0x20, 0x21, 0x29, 0x2A, 0x32, 0x33, 0x3F] → opcode i ∉ ops :=
    fun ops hops hm => hi (hops hm)
  have ⟨_, _, _, hc⟩ := hs
  obtain ⟨hvalid, hsearched⟩ := hchosen (hn _ (by decide))
  refine stageInv_of_stores hs hm (hfunc (hn _ (by decide))) (hvalid.trans (hc.trans hsearched.symm)) fun hf => ?_
  obtain ⟨h1, h2, h3, h4, h5⟩ := noLaterFlag_of_stageInv hs hf
  exact ⟨(hplaced (hn _ (by decide))).trans h1, hsearched.trans h2, (hmasked (hn _ (by decide))).trans h3,
    (hfmt (hn _ (by decide))).trans h4, (hver (hn _ (by decide))).trans h5⟩

/-- MX_FUNC starts a drawn symbol, CLEAR ends it, the later matrix commands need one (R121), and every other command
leaves the flags. -/
theorem stageInv_of_outcome {i : Instr} {s t : State} (hi : i ≠ .encode) (h : outcome i s = .ok t) (hs : StageInv s) :
    StageInv t := by
  have hm := stores_of_outcome hi h
  have ⟨_, _, _, hc⟩ := hs
  cases i with
  | encode => exact absurd rfl hi
  | clear => cases h; exact stageInv_of_zero rfl
  | mxFunc =>
    obtain ⟨hv, rfl⟩ := doMxFunc_eq_ok.1 h
    exact stageInv_of_drawn rfl (legalVersion_iff.1 hv) (written_drawnMatrix _ _) rfl
  | mxPlace =>
    obtain ⟨-, ⟨-, hf, -⟩, _, -, -, _, -, rfl⟩ := doMxPlace_eq_ok.1 h
    exact stageInv_of_stores hs hm ⟨rfl, rfl⟩ hc (by simp [hf])
  | maskSearch =>
    obtain ⟨-, ⟨hf, -⟩, _, -, rfl⟩ := doMaskSearch_eq_ok.1 h
    exact stageInv_of_stores hs hm ⟨rfl, rfl⟩ rfl (by simp [hf])
  | maskApply k =>
    obtain ⟨-, -, ⟨hf, -⟩, -, rfl⟩ := doMaskApply_eq_ok.1 h
    exact stageInv_of_stores hs hm ⟨rfl, rfl⟩ hc (by simp [hf])
  | fmtWrite k =>
    obtain ⟨-, -, ⟨hf, -⟩, rfl⟩ := doFmtWrite_eq_ok.1 h
    exact stageInv_of_stores hs hm ⟨rfl, rfl⟩ hc (by simp [hf])
  | verWrite =>
    obtain ⟨-, ⟨hf, -⟩, ⟨-, rfl⟩ | ⟨-, rfl⟩⟩ := doVerWrite_eq_ok.1 h
    · exact stageInv_of_stores hs hm ⟨rfl, rfl⟩ hc (by simp [hf])
    · exact stageInv_of_stores hs hm ⟨rfl, rfl⟩ hc (by simp [hf])
  | _ => exact stageInv_of_frame (by simp [opcode]) h hm hs

theorem stageInv_keptByWrites : KeptByWrites StageInv where
  congr hr hm h := by unfold StageInv at h ⊢; rwa [hr, hm]
  command hi ho h := stageInv_of_outcome hi ho h
  hostStore hst h :=
    have ⟨_, _, _, hc⟩ := h
    stageInv_of_stores h hst ⟨rfl, rfl⟩ hc (noLaterFlag_of_stageInv h)
  softReset spans h := stageInv_of_zero rfl
  hardReset := stageInv_of_zero rfl

/-- Settles O32: the flags and the written matrix RAM stand or fall together under every single write. -/
theorem stepKeepsStageInv : Obligations.StepKeepsStageInv := by
  intro s t hs h
  exact step_keeps stageInv_keptByWrites h hs

end Sys2Proof.Machine
end

section
/-! PROOFS. The result registers' invariants: GEN is a monic polynomial of degree GEN_DEG or empty (R40, R154),
PEN_TOTAL is the sum of PEN_RULE (R43, R227), and SYNZ is true to SYND (R35, R157). -/

namespace Sys2Proof.Machine

open Sys2Proof Sys2Proof.Safety

/-! ### GEN and GEN_DEG -/

@[simp] theorem gfMul_zero_left (b : Byte) : gfMul 0#8 b = 0#8 := by
  have hstep : ∀ i, gfMulStep 0#8 b 0#9 i = 0#9 := fun i => by simp [gfMulStep]
  simp [gfMul, hstep]

/-- The generator's leading coefficient stays 1 under every factor (R154). -/
theorem genPoly_leading (n : Nat) : (genPoly n)[n]? = some 1 := by
  induction n with
  | zero => rfl
  | succ n ih =>
    have hlast : (genPoly n ++ [0])[n + 1]? = some 0 := by simp
    have hown : ((0 : Byte) :: genPoly n)[n + 1]? = some 1 := by rw [List.getElem?_cons_succ, ih]
    rw [genPoly, mulRoot, List.getElem?_zipWith, hown, hlast]
    simp

/-- The GEN registers hold the polynomial's coefficients, and 0 above them (R40). -/
theorem genRegisters_getD {g : List Byte} (hg : g.length ≤ 31) (i : Nat) :
    (genRegisters g).toList.getD i 0 = g.getD i 0 := by
  by_cases hi : i < 31
  · simp [genRegisters, List.getD_eq_getElem?_getD, hi]
  · simp [List.getD_eq_getElem?_getD, List.getElem?_eq_none (show g.length ≤ i by omega), hi]

theorem generatorInv_setGen (r : Results) {n : Nat} (h1 : 1 ≤ n) (h30 : n ≤ 30) : GeneratorInv (r.setGen n) := by
  have hdeg : (r.setGen n).genDeg.toNat = n := by
    rw [Results.setGen_genDeg, BitVec.toNat_ofNat]; omega
  have hgen : ∀ i, (r.setGen n).gen.toList.getD i 0 = (genPoly n).getD i 0 :=
    genRegisters_getD (by rw [length_genPoly]; omega)
  refine .inr ?_
  simp only [hdeg, hgen]
  refine ⟨h1, h30, ?_, fun i hi => ?_⟩
  · rw [List.getD_eq_getElem?_getD, genPoly_leading]; rfl
  · rw [List.getD_eq_getElem?_getD, List.getElem?_eq_none (by rw [length_genPoly]; omega)]; rfl

theorem generatorInv_congr {r r' : Results} (h : r'.genDeg = r.genDeg ∧ r'.gen = r.gen) (hr : GeneratorInv r) :
    GeneratorInv r' := by
  unfold GeneratorInv at hr ⊢
  rwa [h.1, h.2]

theorem generatorInv_zero : GeneratorInv Results.zero := .inl ⟨rfl, rfl⟩

/-- CLEAR, RS_GEN and RS_ENCODE_ALL are the single commands that write GEN. -/
theorem generatorInv_of_outcome {i : Instr} {s t : State} (hi : i ≠ .encode) (h : outcome i s = .ok t)
    (hs : GeneratorInv s.res) : GeneratorInv t.res := by
  have hframe : opcode i ∉ [0x01, 0x10, 0x13, 0x3F] → GeneratorInv t.res := fun hn =>
    generatorInv_congr ((resultRegistersHaveTheirWriters _ _ _ (exec_of_outcome_ok h)).2.1 hn) hs
  cases i with
  | encode => exact absurd rfl hi
  | clear => cases h; exact generatorInv_zero
  | rsGen n => obtain ⟨⟨h1, h30⟩, rfl⟩ := doRsGen_eq_ok.1 h; exact generatorInv_setGen _ h1 h30
  | rsEncodeAll =>
    obtain ⟨hv, _, -, rfl⟩ := doRsEncodeAll_eq_ok.1 h
    obtain ⟨h1, h30⟩ := eccPerBlk_range hv s.operands.e
    exact generatorInv_congr ⟨rfl, rfl⟩ (generatorInv_setGen s.res h1 h30)
  | _ => exact hframe (by simp [opcode])

/-! ### PEN_TOTAL and PEN_RULE, SYNZ and SYND -/

/-- A PEN_TOTAL register is the sum of its four PEN_RULE registers (R43). -/
def TotalsAdd (rule : Vector Word 4) (total : Word) : Prop := total = rule[0] + rule[1] + rule[2] + rule[3]

/-- The registers of four penalties add up, wrapping as they do. -/
theorem totalsAdd_penalties (p : Params) (v : Nat) (e : EccLevel) (k : Nat) (g : Grid) :
    TotalsAdd (penRuleWords (penalties p v e k g)) (penTotalWord (penalties p v e k g)) := by
  simp [TotalsAdd, penalties, penTotalWord, penRuleWords, BitVec.ofNat_add, BitVec.add_assoc]

theorem scoreInv_congr {r r' : Results} (hp : r'.penRule = r.penRule ∧ r'.penTotal = r.penTotal)
    (hs : r'.synd = r.synd ∧ r'.synz = r.synz) (h : ScoreInv r) : ScoreInv r' := by
  unfold ScoreInv at h ⊢
  rwa [hp.1, hp.2, hs.1, hs.2]

theorem scoreInv_zero : ScoreInv Results.zero := by
  refine ⟨?_, fun h => by cases h⟩
  decide

/-- MASK_EVAL writes the registers of one mask. -/
theorem scoreInv_setPen {r : Results} (k : Nat) {ns : List Nat} (hns : TotalsAdd (penRuleWords ns) (penTotalWord ns))
    (h : ScoreInv r) : ScoreInv (r.setPen k ns) := by
  refine ⟨fun j => ?_, h.2⟩
  by_cases hj : k = j
  · subst hj; simpa [TotalsAdd] using hns
  · have := h.1 j
    simpa [Vector.getElem_setIfInBounds, hj] using this

theorem scoreInv_setSearch {r : Results} (p : Params) (v : Nat) (e : EccLevel) (g : Grid) (h : ScoreInv r) :
    ScoreInv (r.setSearch (allPenalties p v e g)) := by
  refine ⟨fun j => ?_, h.2⟩
  have hj : (allPenalties p v e g)[j.val]?.getD [] = penalties p v e j g := by simp [allPenalties]
  simpa [hj, TotalsAdd] using totalsAdd_penalties p v e j g

/-- RS_SYND sets SYNZ only when every syndrome it computed is 0, and the others are 0 (R157). -/
theorem scoreInv_setSynd {r : Results} (n : Nat) (c : List Byte) (h : ScoreInv r) : ScoreInv (r.setSynd n c) := by
  refine ⟨h.1, fun hz j => ?_⟩
  have hz : ∀ i < n, hornerEval c (gfExp i) = 0 := by simpa [syndromesZero] using hz
  by_cases hj : j < n
  · simp [syndromes, hj, hz j hj]
  · simp [syndromes, hj]

/-- CLEAR, RS_SYND, MASK_EVAL and MASK_SEARCH are the single commands that write these registers. -/
theorem scoreInv_of_outcome {i : Instr} {s t : State} (hi : i ≠ .encode) (h : outcome i s = .ok t)
    (hs : ScoreInv s.res) : ScoreInv t.res := by
  have hframe : opcode i ∉ [0x01, 0x12, 0x28, 0x29, 0x3F] → ScoreInv t.res := fun hn => by
    obtain ⟨-, -, hsynd, -, -, -, -, -, -, hpen, -⟩ := resultRegistersHaveTheirWriters _ _ _ (exec_of_outcome_ok h)
    have hsub : ∀ ops : List Byte, ops ⊆ [0x01, 0x12, 0x28, 0x29, 0x3F] → opcode i ∉ ops :=
      fun ops hops hm => hn (hops hm)
    exact scoreInv_congr (hpen (hsub _ (by decide))) (hsynd (hsub _ (by decide))) hs
  cases i with
  | encode => exact absurd rfl hi
  | clear => cases h; exact scoreInv_zero
  | rsSynd n => obtain ⟨-, _, -, _, -, rfl⟩ := doRsSynd_eq_ok.1 h; exact scoreInv_setSynd _ _ hs
  | maskEval k =>
    obtain ⟨-, -, -, _, -, rfl⟩ := doMaskEval_eq_ok.1 h
    exact scoreInv_setPen _ (totalsAdd_penalties _ _ _ _ _) hs
  | maskSearch =>
    obtain ⟨-, -, _, -, rfl⟩ := doMaskSearch_eq_ok.1 h
    exact scoreInv_congr (r := s.res.setSearch _) ⟨rfl, rfl⟩ ⟨rfl, rfl⟩ (scoreInv_setSearch _ _ _ _ hs)
  | _ => exact hframe (by simp [opcode])

theorem resultInv_keptByWrites : KeptByWrites fun s => GeneratorInv s.res ∧ ScoreInv s.res where
  congr hr _ h := by rwa [hr]
  command hi ho h := ⟨generatorInv_of_outcome hi ho h.1, scoreInv_of_outcome hi ho h.2⟩
  hostStore _ h := h
  softReset _ _ := ⟨generatorInv_zero, scoreInv_zero⟩
  hardReset := ⟨generatorInv_zero, scoreInv_zero⟩

/-- Settles O31: of the single writes only a few touch these registers, and each writes them in agreement. -/
theorem stepKeepsResultInv : Obligations.StepKeepsResultInv := by
  intro s t hg hs h
  exact step_keeps resultInv_keptByWrites h ⟨hg, hs⟩

/-- Settles O29: the memory is empty, every result register 0, and no command in flight. -/
theorem invariantsHoldAtReset : Obligations.InvariantsHoldAtReset :=
  ⟨memoryInv_nil, generatorInv_zero, scoreInv_zero, stageInv_of_zero rfl, handshakeInv_of_idle rfl (Nat.zero_le 7)⟩

end Sys2Proof.Machine
end

section
/-! PROOFS. What the registers read and what a host write to one does (R31 to R44, R63, R321). -/

namespace Sys2Proof.Machine

open Sys2Proof Sys2Proof.Safety

/-! ### Words built from fields -/

@[simp] theorem getLsbD_bitAt (b : Bool) {pos : Nat} (hp : pos < 32) (i : Nat) :
    (bitAt b pos).getLsbD i = (decide (i = pos) && b) := by
  by_cases hi : i = pos
  · subst hi; simp [bitAt, hp]
  · have hlt : ¬ i < pos → ¬ i - pos = 0 := by omega
    by_cases h : i < pos
    · simp [bitAt, hi, h]
    · simp [bitAt, hi, hlt h]

@[simp] theorem getElem_bitAt (b : Bool) {pos : Nat} (hp : pos < 32) (i : Nat) (hi : i < 32) :
    (bitAt b pos)[i] = (decide (i = pos) && b) := by
  rw [← BitVec.getLsbD_eq_getElem, getLsbD_bitAt b hp]

/-- A field above another is a multiple of the power of two it starts at. -/
theorem or_shiftLeft_eq_ofNat {x y : Word} {k : Nat} (hx : x.toNat < 2 ^ k) (hy : y.toNat * 2 ^ k < 2 ^ 32) :
    x ||| y <<< k = BitVec.ofNat 32 (x.toNat + 2 ^ k * y.toNat) := by
  refine BitVec.eq_of_toNat_eq ?_
  have hxy : (y.toNat <<< k ||| x.toNat) = y.toNat * 2 ^ k + x.toNat := by
    rw [← Nat.shiftLeft_add_eq_or_of_lt hx, Nat.shiftLeft_eq]
  have hlt := (x ||| y <<< k).isLt
  rw [BitVec.toNat_or, BitVec.toNat_shiftLeft, Nat.shiftLeft_eq, Nat.mod_eq_of_lt hy, ← Nat.shiftLeft_eq, Nat.or_comm,
    hxy] at hlt ⊢
  rw [BitVec.toNat_ofNat, Nat.mul_comm (2 ^ k), Nat.add_comm x.toNat, Nat.mod_eq_of_lt hlt]

theorem errcodeWord_eq_ofNat (s : State) :
    s.errcodeWord = BitVec.ofNat 32 (s.errCode.toNat + 256 * s.errOp.toNat) := by
  have h : s.errOp.toNat <<< 8 ||| s.errCode.toNat = s.errCode.toNat + 256 * s.errOp.toNat := by
    rw [← Nat.shiftLeft_add_eq_or_of_lt s.errCode.isLt, Nat.shiftLeft_eq]; omega
  rw [State.errcodeWord, ← BitVec.ofNat_toNat, BitVec.toNat_append, h]

/-- STATUS, bit by bit (R31, R35). -/
theorem getLsbD_status (s : State) {i : Nat} (hi : i < 32) : s.status.getLsbD i =
    [s.busy, s.done, s.errCode != 0, s.ovr, s.res.synz, false, false, false, s.res.eccDone, s.res.ilvDone,
      s.res.funcDone, s.res.placed, s.res.searched, s.res.masked, s.res.fmtDone, s.res.verDone].getD i false := by
  simp only [State.status, State.err]
  interval_cases i <;> simp

/-! ### What they read -/

/-- Settles O14: every register of an idle QRENC reads its field, whose bits make up the word. -/
theorem registersReadTheState : Obligations.RegistersReadTheState := by
  intro s hl
  have hread : ∀ c, readData s (csrOffset c) = some (readCsr s c) := fun c => readData_of_idle (.inl hl)
  have hfield : ∀ {n : Nat} (x : BitVec n), some (x.setWidth 32) = some (BitVec.ofNat 32 x.toNat) := fun x => by
    rw [BitVec.ofNat_toNat]
  refine ⟨hread .id, (hread .ctrl).trans ?_, hread .cmd, ⟨_, hread .status, fun i hi => ?_⟩, (hread .errcode).trans ?_,
    (hread .config).trans ?_, (hread .arg0).trans (hfield _), (hread .arg1).trans (hfield _),
    (hread .arg2).trans (hfield _), (hread .gfRes).trans (hfield _), (hread .genDeg).trans (hfield _),
    (hread .chosen).trans ?_, (hread .fmtWord).trans (hfield _), (hread .verWord).trans (hfield _),
    (hread .cwLen).trans (hfield _), (hread .mxVersion).trans (hfield _), fun k => hread (.penTotal k),
    fun k j => hread (.penRule k j), fun i => (hread (.gen i)).trans (hfield _),
    fun j => (hread (.synd j)).trans (hfield _)⟩
  · cases h : s.ie <;> simp [readCsr, bitAt, h]
  · have hb : s.busy = false := by simp [State.busy, hl]
    rw [readCsr, getLsbD_status s hi, hb]
  · rw [readCsr, errcodeWord_eq_ofNat]
  · have hv := s.version.isLt
    have he := s.ecl.isLt
    rw [readCsr, or_shiftLeft_eq_ofNat (k := 8)] <;> simp only [BitVec.toNat_setWidth]
    · rw [Nat.mod_eq_of_lt (by omega), Nat.mod_eq_of_lt (by omega)]; rfl
    · omega
    · omega
  · have hm := s.res.chosenMask.isLt
    have hv := (BitVec.ofBool s.res.chosenValid).isLt
    rw [readCsr, bitAt, or_shiftLeft_eq_ofNat] <;> simp only [BitVec.toNat_setWidth]
    · rw [Nat.mod_eq_of_lt (by omega), Nat.mod_eq_of_lt (by omega)]
      cases s.res.chosenValid <;> rfl
    · omega
    · omega

/-- Settles O13: irq is IE and DONE, and each of the three writes makes one of the two 0; a CTRL write that is also a
soft reset makes both 0. -/
theorem irqFollowsDoneAndEnable : Obligations.IrqFollowsDoneAndEnable := by
  intro s w
  refine ⟨rfl, fun h => ⟨_, hostAccess_wordWrite s .status w, ?_⟩, fun h => ⟨_, hostAccess_wordWrite s .ctrl w, ?_⟩,
    fun h => ⟨_, hostAccess_wordWrite s .cmd w, ?_⟩⟩
  · simp [hostWriteCsr, writeCsr, State.writeStatus, State.irq, h]
  · simp only [hostWriteCsr]
    split
    · rfl
    · simp only [writeCsr, State.irq, State.answer_ie, h, Bool.false_and]
  · simp [hostWriteCsr, writeCsr, State.issue, State.busy, h, State.irq]

/-- Settles O16: each write is its register's update, and the register then reads the bits of the word that it holds. -/
theorem hostRegistersTakeWrites : Obligations.HostRegistersTakeWrites := by
  intro s w
  have hread : ∀ (s : State) c, isResultCsr c = false → readData s (csrOffset c) = some (readCsr s c) :=
    fun s c hc => readData_of_idle (.inr hc)
  have harg : some ((w.extractLsb' 0 16).setWidth 32) = some (w &&& 0xFFFF#32) := by
    refine congrArg some (BitVec.eq_of_toNat_eq ?_)
    have hmask : w.toNat &&& 65535 = w.toNat % 2 ^ 16 := Nat.and_two_pow_sub_one_eq_mod w.toNat 16
    rw [BitVec.toNat_setWidth, BitVec.extractLsb'_toNat, BitVec.toNat_and, BitVec.toNat_ofNat]
    simp only [Nat.shiftRight_zero, hmask]
    omega
  refine ⟨fun h => ⟨(hostAccess_wordWrite s .ctrl w).trans ?_, (hread _ .ctrl rfl).trans ?_⟩,
    hostAccess_wordWrite s .status w, hostAccess_wordWrite s .config w, (hread _ .config rfl).trans ?_,
    hostAccess_wordWrite s .arg0 w, hostAccess_wordWrite s .arg1 w, hostAccess_wordWrite s .arg2 w,
    (hread _ .arg0 rfl).trans harg, (hread _ .arg1 rfl).trans harg, (hread _ .arg2 rfl).trans harg⟩
  · rw [hostWriteCsr, if_neg fun hs => Bool.false_ne_true (h.symm.trans hs.2)]; rfl
  · rw [readCsr]
    refine congrArg some (BitVec.eq_of_getLsbD_eq fun i hi => ?_)
    rw [getLsbD_bitAt _ (by decide), BitVec.getLsbD_and]
    by_cases h0 : i = 0
    · subst h0; simp
    · simp [h0, BitVec.getLsbD_one]
  · rw [readCsr]
    refine congrArg some (BitVec.eq_of_getLsbD_eq fun i hi => ?_)
    interval_cases i <;> simp

/-- The table entry an INFO register or ALIGN view shows at a legal VERSION (R44). -/
def infoEntry : Csr → Option (Nat → EccLevel → Word)
  | .infoSide => some fun v _ => BitVec.ofNat 32 (side v)
  | .infoTotalCw => some fun v _ => BitVec.ofNat 32 (totalCw v)
  | .infoDataCw => some fun v e => BitVec.ofNat 32 (dataCw v e)
  | .infoEccPerBlk => some fun v e => BitVec.ofNat 32 (eccPerBlk v e)
  | .infoG1 => some fun v e => groupWord (g1Count v e) (g1Data v e)
  | .infoG2 => some fun v e => groupWord (g2Count v e) (if g2Count v e = 0 then 0 else g2Data v e)
  | .infoRemBits => some fun v _ => BitVec.ofNat 32 (remBits v)
  | .infoNumBlocks => some fun v e => BitVec.ofNat 32 (numBlocks v e)
  | .alignN => some fun v _ => BitVec.ofNat 32 (alignCoords v).length
  | .alignPos i => some fun v _ => BitVec.ofNat 32 ((alignCoords v).getD i 0)
  | _ => none

theorem readCsr_of_infoEntry (s : State) {c : Csr} {f : Nat → EccLevel → Word} (h : infoEntry c = some f) :
    readCsr s c = infoView s f := by
  cases c <;> cases h <;> rfl

/-- The INFO registers and ALIGN views by their offsets (R31). -/
theorem infoEntry_isSome {c : Csr} (h : (0x060 ≤ csrOffset c ∧ csrOffset c ≤ 0x080) ∨
    (0x0C0 ≤ csrOffset c ∧ csrOffset c ≤ 0x0D8)) : (infoEntry c).isSome = true := by
  cases c with
  | infoSide | infoTotalCw | infoDataCw | infoEccPerBlk | infoG1 | infoG2 | infoRemBits | infoNumBlocks | alignN
  | alignPos i => rfl
  | _ => simp only [csrOffset] at h; omega

/-- An INFO or ALIGN view is its table entry at a legal VERSION, and 0 at any other (R44). -/
theorem readData_of_infoEntry {s : State} {c : Csr} {f : Nat → EccLevel → Word} (h : infoEntry c = some f) :
    readData s (csrOffset c) =
      some (if legalVersion s.version.toNat then f s.version.toNat (eccLevel s.ecl) else 0) := by
  have hc : isResultCsr c = false := by cases c <;> cases h <;> rfl
  rw [readData_of_idle (.inr hc), readCsr_of_infoEntry s h, infoView]

/-- Settles O19: the registers at the INFO and ALIGN offsets are the views of `infoEntry`, which show an entry or 0 by
the legality of VERSION. -/
theorem infoRegistersShowTheTables : Obligations.InfoRegistersShowTheTables := by
  intro s
  refine ⟨fun hv off hoff hr => ?_, fun hv v e hv' he => ?_⟩
  · obtain ⟨c, rfl⟩ := csrListed_iff.1 hoff
    obtain ⟨f, hf⟩ := Option.isSome_iff_exists.1 (infoEntry_isSome hr)
    rw [readData_of_infoEntry hf, if_neg fun h => hv (legalVersion_iff.1 h)]
  · have hentry : ∀ {c f}, infoEntry c = some f → readData s (csrOffset c) = some (f v e) := fun hf => by
      rw [readData_of_infoEntry hf, if_pos (legalVersion_iff.2 hv), hv', he]
    have hgroup : ∀ count data, BitVec.ofNat 32 (count + 65536 * data) = groupWord count data := fun count data => by
      rw [groupWord, Nat.mul_comm]
    rw [hgroup, hgroup]
    exact ⟨hentry (c := .infoSide) rfl, hentry (c := .infoTotalCw) rfl, hentry (c := .infoDataCw) rfl,
      hentry (c := .infoEccPerBlk) rfl, hentry (c := .infoG1) rfl, hentry (c := .infoG2) rfl,
      hentry (c := .infoRemBits) rfl, hentry (c := .infoNumBlocks) rfl, hentry (c := .alignN) rfl,
      fun i hi => hentry (c := .alignPos ⟨i, hi⟩) rfl⟩

end Sys2Proof.Machine
end

section
/-! PROOFS. Reserved bits and read-only fields of the registers (R31, R50). -/

namespace Sys2Proof.Machine

open Sys2Proof Sys2Proof.Safety

/-- The bits R31's table names of each register. -/
def csrBits : Csr → Word
  | .ctrl => 0x3
  | .status => 0xFF1F
  | .errcode | .arg0 | .arg1 | .arg2 => 0xFFFF
  | .config => 0x33F
  | .gfRes | .gen _ | .synd _ | .infoSide | .infoEccPerBlk | .infoNumBlocks | .alignPos _ => 0xFF
  | .genDeg | .mxVersion => 0x3F
  | .chosen => 0x80000007
  | .fmtWord => 0x7FFF
  | .verWord => 0x3FFFF
  | .cwLen | .infoTotalCw | .infoDataCw => 0xFFF
  | .infoG1 | .infoG2 => 0xFF00FF
  | .infoRemBits | .alignN => 0x7
  | .id | .cmd | .penTotal _ | .penRule _ _ => 0xFFFFFFFF

theorem namedBits_csrOffset (c : Csr) : namedBits (csrOffset c) = csrBits c := by
  cases c with
  | penTotal k => revert k; decide
  | alignPos i => revert i; decide
  | penRule k j => revert k j; decide
  | gen i => revert i; decide
  | synd j => revert j; decide
  | _ => rfl

/-! ### Reads -/

/-- The word has no bit outside the mask. -/
abbrev Fits (d m : Word) : Prop := d &&& ~~~ m = 0

theorem fits_of_getLsbD {d m : Word} (h : ∀ i < 32, d.getLsbD i = true → m.getLsbD i = true) : Fits d m := by
  refine BitVec.eq_of_getLsbD_eq fun i hi => ?_
  rw [BitVec.getLsbD_and, BitVec.getLsbD_not]
  cases hd : d.getLsbD i
  · simp
  · simp [h i hi hd]

theorem fits_and (d m : Word) : Fits (d &&& m) m :=
  fits_of_getLsbD fun i _ h => by
    rw [BitVec.getLsbD_and, Bool.and_eq_true] at h
    exact h.2

theorem fits_or {d d' m : Word} (h : Fits d m) (h' : Fits d' m) : Fits (d ||| d') m := by
  rw [Fits, BitVec.and_or_distrib_right, h, h', BitVec.or_self]

theorem and_ones (d : Word) : d &&& 0xFFFFFFFF = d := BitVec.and_allOnes

theorem fits_ones (d : Word) : Fits d 0xFFFFFFFF := and_ones d ▸ fits_and d 0xFFFFFFFF

/-- A field fits a mask with ones at its bits. -/
theorem fits_field {n : Nat} (x : BitVec n) (lo : Nat) {m : Word} (hm : ∀ i < n, m.getLsbD (lo + i) = true) :
    Fits (x.setWidth 32 <<< lo) m := by
  refine fits_of_getLsbD fun i hi h => ?_
  rw [BitVec.getLsbD_shiftLeft, BitVec.getLsbD_setWidth] at h
  simp only [Bool.and_eq_true, Bool.not_eq_true', decide_eq_true_eq, decide_eq_false_iff_not] at h
  obtain ⟨⟨-, hlo⟩, -, hx⟩ := h
  have hn := hm (i - lo) (BitVec.lt_of_getLsbD hx)
  rwa [show lo + (i - lo) = i by omega] at hn

theorem fits_setWidth {n : Nat} (x : BitVec n) {m : Word} (hm : ∀ i < n, m.getLsbD i = true) :
    Fits (x.setWidth 32) m := by
  simpa using fits_field x 0 (m := m) (by simpa using hm)

/-- Every table entry fits its register (R31, R46, R47, R49). -/
theorem fits_infoEntry {c : Csr} {f : Nat → EccLevel → Word} (h : infoEntry c = some f) {v : Nat}
    (hv : legalVersion v = true) (e : EccLevel) : Fits (f v e) (csrBits c) := by
  refine forall_legal_ecc (p := fun v e => Fits (f v e) (csrBits c)) ?_ hv e
  cases c <;> cases h
  case alignPos i => revert i; decide +kernel
  all_goals decide +kernel

theorem fits_infoView (s : State) {c : Csr} {f : Nat → EccLevel → Word} (h : infoEntry c = some f) :
    Fits (readCsr s c) (csrBits c) := by
  rw [readCsr_of_infoEntry s h, infoView]
  split
  · next hv => exact fits_infoEntry h hv _
  · exact BitVec.zero_and

/-- STATUS has no bit at the reserved positions (R35). -/
theorem fits_status (s : State) : Fits s.status (csrBits .status) := by
  refine fits_of_getLsbD fun i hi => ?_
  rw [getLsbD_status s hi]
  interval_cases i <;> simp [csrBits]

theorem fits_readCsr (s : State) (c : Csr) : Fits (readCsr s c) (csrBits c) := by
  cases c with
  | id => exact fits_ones _
  | ctrl => exact fits_field (BitVec.ofBool s.ie) 0 (by decide)
  | cmd => exact fits_ones _
  | status => exact fits_status s
  | errcode => exact fits_setWidth (s.errOp ++ s.errCode) (by decide)
  | config =>
    exact fits_or (fits_setWidth s.version (by decide)) (fits_field s.ecl 8 (by decide))
  | arg0 => exact fits_setWidth s.arg0 (by decide)
  | arg1 => exact fits_setWidth s.arg1 (by decide)
  | arg2 => exact fits_setWidth s.arg2 (by decide)
  | gfRes => exact fits_setWidth s.res.gfRes (by decide)
  | genDeg => exact fits_setWidth s.res.genDeg (by decide)
  | chosen =>
    exact fits_or (fits_setWidth s.res.chosenMask (by decide))
      (fits_field (BitVec.ofBool s.res.chosenValid) 31 (by decide))
  | fmtWord => exact fits_setWidth s.res.fmtWord (by decide)
  | verWord => exact fits_setWidth s.res.verWord (by decide)
  | cwLen => exact fits_setWidth s.res.cwLen (by decide)
  | mxVersion => exact fits_setWidth s.res.mxVersion (by decide)
  | penTotal k => exact fits_ones _
  | penRule k j => exact fits_ones _
  | gen i => exact fits_setWidth (m := 0xFF) s.res.gen[i] (by decide)
  | synd j => exact fits_setWidth (m := 0xFF) s.res.synd[j] (by decide)
  | infoSide | infoTotalCw | infoDataCw | infoEccPerBlk | infoG1 | infoG2 | infoRemBits | infoNumBlocks | alignN
  | alignPos i => exact fits_infoView s rfl

theorem resultBits_eq_csrBits {c : Csr} (h : isResultCsr c = true) : resultBits c = csrBits c := by
  cases c <;> cases h <;> rfl

theorem fits_csrReadData (s : State) (c : Csr) : Fits (csrReadData s c) (csrBits c) := by
  unfold csrReadData
  split
  · next h =>
    rw [resultBits_eq_csrBits (Bool.and_eq_true _ _ ▸ h).2]
    exact fits_and _ _
  · exact fits_readCsr s c

/-! ### Writes -/

/-- Masking keeps a field all of whose bits are in the mask. -/
theorem extractLsb'_and_mask {w m : Word} {lo n : Nat} (hm : ∀ i < n, m.getLsbD (lo + i) = true) :
    (w &&& m).extractLsb' lo n = w.extractLsb' lo n := by
  refine BitVec.eq_of_getLsbD_eq fun i hi => ?_
  simp [hi, hm i hi]

/-- The bits of a written word that R31 does not name make no difference. -/
theorem hostWriteCsr_csrBits (s : State) (c : Csr) (w : Word) :
    hostWriteCsr s c (w &&& csrBits c) = hostWriteCsr s c w := by
  cases c with
  | ctrl => simp [hostWriteCsr, csrBits, writeCsr]
  | cmd => rw [csrBits, and_ones]
  | status => simp [hostWriteCsr, csrBits, writeCsr, State.writeStatus]
  | config =>
    simp only [hostWriteCsr, csrBits, writeCsr, reduceCtorEq, false_and, if_false]
    rw [extractLsb'_and_mask (by decide), extractLsb'_and_mask (by decide)]
  | arg0 | arg1 | arg2 =>
    simp only [hostWriteCsr, csrBits, writeCsr, reduceCtorEq, false_and, if_false]
    rw [extractLsb'_and_mask (by decide)]
  | _ => rfl

/-- A write to an RO register does nothing (R31, R50). -/
theorem hostWriteCsr_of_readOnly (s : State) {c : Csr} (w : Word) (h : hostWritable (csrOffset c) = false) :
    hostWriteCsr s c w = s := by
  cases c with
  | ctrl | cmd | status | config | arg0 | arg1 | arg2 => cases h
  | _ => rfl

/-- A STATUS write looks at the bits of DONE and OVR alone (R35). -/
theorem hostAccess_statusWrite (s : State) (w : Word) :
    hostAccess s (wordWrite 0x00C w) = hostAccess s (wordWrite 0x00C (w &&& 0x0000000A)) := by
  have h : ∀ w, hostAccess s (wordWrite 0x00C w) = .next ((s.writeStatus w).answer .written) :=
    hostAccess_wordWrite s .status
  rw [h, h]
  simp [State.writeStatus]

/-- Settles O15: what a register reads fits its named bits, busy or not (log 4); a write sees the named bits alone and
an RO register none; and a word access at a register's offset is always answered. -/
theorem reservedBitsAndReadOnlyFields : Obligations.ReservedBitsAndReadOnlyFields := by
  intro s off hoff
  obtain ⟨c, rfl⟩ := csrListed_iff.1 hoff
  simp only [namedBits_csrOffset, hostAccess_wordWrite]
  refine ⟨⟨_, readData_csrOffset s c, fits_csrReadData s c⟩, fun w => ⟨_, rfl⟩, fun w => ?_, fun w => ?_,
    fun h w => ?_, fun op es ha => ?_⟩
  · rw [hostWriteCsr_csrBits]
  · exact hostAccess_statusWrite s w
  · rw [hostWriteCsr_of_readOnly s w h]; rfl
  · rw [StepSafe, step_of_host ha, hostAccess_csr]
    cases op <;> exact ⟨_, rfl⟩

end Sys2Proof.Machine
end

section
/-! PROOFS. The ROM tables against the closed forms of their rules (R46, R47, R49). -/

namespace Sys2Proof.Machine

open Sys2Proof Sys2Proof.Safety

/-- The counts of R47's table are RAW(V) cut into bytes and remainder bits. -/
theorem rawFormula_eq {v : Nat} (hv : legalVersion v = true) :
    8 * totalCw v + remBits v = rawFormula v ∧ remBits v < 8 :=
  forall_legal (p := fun v => 8 * totalCw v + remBits v = rawFormula v ∧ remBits v < 8) (by decide +kernel) hv

/-- Every block has a data codeword and fits the RS code's 255 symbols (R46). -/
theorem g1Data_range {v : Nat} (hv : legalVersion v = true) (e : EccLevel) :
    1 ≤ g1Data v e ∧ g1Data v e + 1 + eccPerBlk v e ≤ 255 :=
  forall_legal_ecc (p := fun v e => 1 ≤ g1Data v e ∧ g1Data v e + 1 + eccPerBlk v e ≤ 255) (by decide +kernel) hv e

/-- The shorter and the longer blocks share out the data codewords (R46). -/
theorem groups_eq_dataCw {v : Nat} (hv : legalVersion v = true) (e : EccLevel) :
    g1Count v e * g1Data v e + g2Count v e * g2Data v e = dataCw v e := by
  rw [← (sum_blockLengths hv e).1, blockLengths, List.sum_append, List.sum_replicate, List.sum_replicate]
  rfl

/-- R49's closed form of the alignment coordinates. -/
def alignFormula (v : Nat) : List Nat :=
  6 :: (List.range (v / 7 + 1)).map fun t =>
    4 * v + 17 - 7 - 2 * ((8 * v + 3 * (v / 7 + 2) + 5) / (4 * (v / 7 + 2) - 4)) * (v / 7 + 2 - 2 - t)

theorem alignCoords_eq_formula {v : Nat} (hv : legalVersion v = true) : 2 ≤ v → alignCoords v = alignFormula v :=
  forall_legal (p := fun v => 2 ≤ v → alignCoords v = alignFormula v) (by decide +kernel) hv

/-- Settles O20: the table facts, one lemma each, read off the rows of all versions and levels. -/
theorem romTablesAgreeWithTheirFormulas : Obligations.RomTablesAgreeWithTheirFormulas := by
  intro v h1 h40
  have hv : legalVersion v = true := legalVersion_iff.2 ⟨h1, h40⟩
  obtain ⟨hraw, hrem⟩ := rawFormula_eq hv
  refine ⟨hraw, hrem, fun e => ?_, fun h => ?_, alignCoords_eq_formula hv⟩
  · obtain ⟨hlo, hhi⟩ := g1Data_range hv e
    have hcw := (codewords_fit hv e).1
    exact ⟨hlo, hhi, (eccPerBlk_range hv e).2, groups_eq_dataCw hv e, by rwa [Nat.mul_comm]⟩
  · rw [h]; rfl

end Sys2Proof.Machine
end

section
/-! PROOFS. Host reads of unwritten bytes (R60, R81 to R84, R87). -/

namespace Sys2Proof.Machine

open Sys2Proof Sys2Proof.Safety

/-- The number R81's table gives a region. -/
def regionIndex : Region → Nat
  | .csr => 0
  | .dcw => 1
  | .ecc => 2
  | .cw => 3
  | .matrix => 4

theorem regionIndex_injective {r r' : Region} (h : regionIndex r = regionIndex r') : r = r' := by
  cases r <;> cases r' <;> cases h <;> rfl

/-- The window map, written as in R81's table. -/
theorem regionNumber_eq (a : Nat) : regionNumber a = (regionOf a).map regionIndex := by
  have hle : ∀ n, (a < n + 1) = (a ≤ n) := fun n => propext Nat.lt_succ_iff
  unfold regionNumber regionOf
  simp only [hle 0x0FFF, hle 0x1FFF, hle 0x2FFF, hle 0x3FFF]
  split_ifs <;> rfl

theorem lt_of_regionOf_csr {a : Nat} (h : regionOf a = some .csr) : a < 0x1000 := by
  unfold regionOf at h
  split_ifs at h with hlt
  · exact hlt
  all_goals cases h

theorem regionNumber_eq_iff {a b : Nat} : regionNumber a = regionNumber b ↔ regionOf a = regionOf b := by
  rw [regionNumber_eq, regionNumber_eq]
  exact (Option.map_injective fun _ _ h => regionIndex_injective h).eq_iff

theorem accessBytes_eq (a : Access) : accessBytes a = sizeBytes a.size := by
  cases h : a.size <;> simp [accessBytes, sizeBytes, h]

/-- The accesses that reach RAM are those above the registers that complete with OK (R87). -/
theorem ram_target_iff (a : Access) : (∃ r, accessTarget a = some (.ram r a.addr.toNat (accessBytes a))) ↔
    ¬ ErrorAccess a ∧ 0x1000 ≤ a.addr.toNat := by
  constructor
  · rintro ⟨r, h⟩
    obtain ⟨-, -, halign, hr, hlo, hhi⟩ := accessTarget_eq_ram.1 h
    have hrange : 0x1000 ≤ a.addr.toNat := by rcases regionOf_ram hlo hr with ⟨-, h, -⟩ | ⟨-, h, -⟩ <;> omega
    refine ⟨?_, hrange⟩
    rintro (h | ⟨h, -⟩ | ⟨h, -⟩ | h | h)
    · rw [regionNumber_eq, hlo] at h; cases h
    · omega
    · omega
    · exact h halign
    · exact h (regionNumber_eq_iff.2 (hhi.trans hlo.symm))
  · rintro ⟨hok, hrange⟩
    simp only [ErrorAccess, not_or, not_not] at hok
    obtain ⟨hmapped, -, -, halign, hend⟩ := hok
    rw [regionNumber_eq, Option.map_eq_none_iff] at hmapped
    obtain ⟨r, hr⟩ := Option.ne_none_iff_exists'.1 hmapped
    refine ⟨r, accessTarget_eq_ram.2 ⟨rfl, accessBytes_eq a, halign, ?_, hr, (regionNumber_eq_iff.1 hend).trans hr⟩⟩
    rintro rfl
    have := lt_of_regionOf_csr hr
    omega

/-- A RAM access faults as unwritten exactly as an idle QRENC's read of a range with an unwritten byte (R60, R320). -/
theorem ramAccess_eq_uninitRead {s : State} {r : Region} {off n : Nat} {op : AccessOp} :
    ramAccess s r off n op = .fault .uninitRead ↔
      s.latch = none ∧ op = .read ∧ s.mem.readRange off n = none := by
  unfold ramAccess
  cases hl : s.latch with
  | some o => simp [State.busy, hl]
  | none =>
    cases op with
    | write w => simp [State.busy, hl, ramWrite]
    | read =>
      cases hm : s.mem.readRange off n <;> simp [State.busy, hl, ramRead, hm]

theorem hostAccess_eq_uninitRead {s : State} {a : Access} : hostAccess s a = .fault .uninitRead ↔
    ∃ r off n, accessTarget a = some (.ram r off n) ∧ ramAccess s r off n a.op = .fault .uninitRead := by
  unfold hostAccess
  rcases accessTarget a with _ | ⟨c⟩ | ⟨r, off, n⟩
  · simp
  · cases a.op <;> simp [csrAccess]
  · simp

/-- A range of a canonical memory cannot be read exactly when one of its bytes is unwritten (R60). -/
theorem readRange_eq_none {m : Memory} (hw : m.wf) {a n : Nat} :
    m.readRange a n = none ↔ ∃ i < n, m.read (a + i) = none := by
  have h := not_congr (Memory.readRange_isSome hw (a := a) (n := n))
  simpa using h

/-- Settles O23: an access that is no bus error and lies above the registers reaches RAM, where only an idle QRENC's
read of an unwritten byte faults so. -/
theorem uninitReadsExactly : Obligations.UninitReadsExactly := by
  intro s a hw
  rw [hostAccess_eq_uninitRead, ← and_assoc, ← ram_target_iff, ← readRange_eq_none hw]
  constructor
  · rintro ⟨r, off, n, ht, hf⟩
    obtain ⟨rfl, rfl, -⟩ := accessTarget_eq_ram.1 ht
    rw [accessBytes_eq]
    exact ⟨⟨r, ht⟩, ramAccess_eq_uninitRead.1 hf⟩
  · rintro ⟨⟨r, ht⟩, h⟩
    exact ⟨r, _, _, ht, ramAccess_eq_uninitRead.2 h⟩

end Sys2Proof.Machine
end

section
/-! PROOFS. What each host access answers (R81 to R88, R321): which complete with ERROR, what a read leaves alone, and
the bytes a RAM access carries. -/

namespace Sys2Proof.Machine

open Sys2Proof Sys2Proof.Safety

/-! ### Accesses that complete with ERROR -/

/-- The accesses that reach a register are those below the RAMs that complete with OK (R87). -/
theorem csr_target_iff (a : Access) : (∃ c, accessTarget a = some (.csr c)) ↔
    ¬ ErrorAccess a ∧ a.addr.toNat < 0x1000 := by
  have hregion : ∀ x < 0x1000, regionNumber x = some 0 := fun x hx => if_pos (Nat.le_of_lt_succ hx)
  constructor
  · rintro ⟨c, h⟩
    obtain ⟨hlt, hsize, halign, hc⟩ := accessTarget_eq_csr.1 h
    have hlisted : csrListed a.addr.toNat = true := csrListed_iff.2 ⟨c, csrOffset_of_csrAt hc⟩
    rw [← accessBytes_eq] at hsize
    refine ⟨?_, hlt⟩
    rintro (h | ⟨-, h⟩ | ⟨-, h⟩ | h | h)
    · rw [hregion _ hlt] at h; cases h
    · rw [hlisted] at h; cases h
    · exact h hsize
    · exact h (by rwa [hsize])
    · exact h ((hregion _ (by omega)).trans (hregion _ hlt).symm)
  · rintro ⟨hok, hlt⟩
    simp only [ErrorAccess, not_or, not_and, not_not, Bool.not_eq_false] at hok
    obtain ⟨-, hlisted, hsize, halign, -⟩ := hok
    have h4 : accessBytes a = 4 := hsize (by omega)
    obtain ⟨c, hc⟩ := csrListed_iff.1 (hlisted (by omega))
    exact ⟨c, accessTarget_eq_csr.2 ⟨hlt, by rw [← accessBytes_eq, h4], by rwa [h4] at halign,
      by rw [hc, csrAt_csrOffset]⟩⟩

/-- An access reaches nothing exactly when one of R87's conditions holds. -/
theorem accessTarget_eq_none {a : Access} : accessTarget a = none ↔ ErrorAccess a := by
  constructor
  · intro h
    by_contra hok
    by_cases hlt : a.addr.toNat < 0x1000
    · obtain ⟨c, hc⟩ := (csr_target_iff a).2 ⟨hok, hlt⟩
      rw [h] at hc; cases hc
    · obtain ⟨r, hr⟩ := (ram_target_iff a).2 ⟨hok, by omega⟩
      rw [h] at hr; cases hr
  · intro he
    cases h : accessTarget a with
    | none => rfl
    | some t =>
      cases t with
      | csr c => exact absurd he ((csr_target_iff a).1 ⟨c, h⟩).1
      | ram r off n =>
        obtain ⟨rfl, rfl, -⟩ := accessTarget_eq_ram.1 h
        rw [← accessBytes_eq] at h
        exact absurd he ((ram_target_iff a).1 ⟨r, h⟩).1

theorem ramAccess_ne_busError (s : State) (r : Region) (off n : Nat) (op : AccessOp) :
    ramAccess s r off n op ≠ .fault .busError := by
  unfold ramAccess
  split
  · simp
  · cases op with
    | write w => simp [ramWrite]
    | read => cases hm : s.mem.readRange off n <;> simp [ramRead, hm]

/-- Settles O21: the fault is answered to an access that reaches neither a register nor RAM, and to no other. -/
theorem busErrorsExactly : Obligations.BusErrorsExactly := by
  intro s a
  rw [← accessTarget_eq_none, hostAccess]
  rcases accessTarget a with _ | ⟨c⟩ | ⟨r, off, n⟩
  · simp
  · cases a.op <;> simp [csrAccess]
  · simp [ramAccess_ne_busError]

/-! ### Reads -/

/-- A register read changes at most the count of draws, and that only while busy (R88, log 5). -/
theorem afterCsrRead_eq (s : State) (c : Csr) : afterCsrRead s c = { s with draws := (afterCsrRead s c).draws } := by
  unfold afterCsrRead; split <;> rfl

theorem afterCsrRead_of_idle {s : State} (c : Csr) (h : s.latch = none) : afterCsrRead s c = s := by
  simp [afterCsrRead, State.busy, h]

/-- A read that answers has read a register or RAM bytes, and changed nothing else (R88). -/
theorem hostAccess_read_frame {s t : State} {a : Access} (hop : a.op = .read) (h : hostAccess s a = .next t) :
    t = { s with reply := t.reply, draws := t.draws } ∧ (s.latch = none → t.draws = s.draws) := by
  rcases hostAccess_cases s a with ⟨f, he⟩ | ⟨c, -, -, he⟩ | ⟨c, w, -, hw, -⟩ | ⟨r, off, n, bs, -, -, -, he⟩ |
    ⟨r, off, n, w, -, -, hw, -⟩
  · rw [he] at h; cases h
  · rw [he] at h; cases h
    refine ⟨?_, fun hl => by rw [afterCsrRead_of_idle c hl]; rfl⟩
    rw [afterCsrRead_eq]; rfl
  · rw [hop] at hw; cases hw
  · rw [he] at h; cases h
    exact ⟨rfl, fun _ => rfl⟩
  · rw [hop] at hw; cases hw

/-- R321's offsets are the result CSRs'. -/
theorem isResultCsr_eq (c : Csr) : isResultCsr c = resultOffset (csrOffset c) := by
  cases c with
  | penTotal k => revert k; decide
  | alignPos i => revert i; decide
  | penRule k j => revert k j; decide
  | gen i => revert i; decide
  | synd j => revert j; decide
  | _ => rfl

/-- STATUS alone shows whether a command is in flight (R35). -/
theorem readCsr_latch (s : State) (l : Option Latch) {c : Csr} (h : c ≠ .status) :
    readCsr { s with latch := l } c = readCsr s c := by
  cases c with
  | status => exact absurd rfl h
  | _ => rfl

/-- STATUS but for BUSY is what it is with no command in flight (R35). -/
theorem status_clear_busy (s : State) : s.status &&& ~~~ 1#32 = State.status { s with latch := none } := by
  refine BitVec.eq_of_getLsbD_eq fun i hi => ?_
  rw [BitVec.getLsbD_and, BitVec.getLsbD_not, BitVec.getLsbD_one, getLsbD_status _ hi, getLsbD_status _ hi]
  cases i with
  | zero => simp [State.busy]
  | succ i => simp [hi]

/-- Settles O18: the frame of a read, then the two readings of the registers that are no result CSR: their fields, and
STATUS bit by bit. -/
theorem readsHaveNoSideEffect : Obligations.ReadsHaveNoSideEffect := by
  intro s
  refine ⟨fun a t => hostAccess_read_frame, fun off hoff hres hne => ?_, fun hl => ?_⟩
  · obtain ⟨c, rfl⟩ := csrListed_iff.1 hoff
    have hc : isResultCsr c = false := (isResultCsr_eq c).trans hres
    have hstatus : c ≠ .status := by rintro rfl; exact hne rfl
    rw [readData_of_idle (.inr hc), readData_of_idle (.inr hc), readCsr_latch s none hstatus]
  · have hread : ∀ s : State, readData s 0x00C = some s.status := fun s => readData_of_idle (c := .status) (.inr rfl)
    have hbusy : s.busy = true := Option.isSome_iff_ne_none.2 hl
    rw [hread, hread, Option.map_some, Option.map_some, status_clear_busy, getLsbD_status s (by decide), hbusy]
    exact ⟨rfl, rfl⟩

/-! ### RAM accesses -/

/-- A RAM region stores and returns the whole byte of a buffer and bits[3:0] of a module (R55, R56, R86). -/
theorem ramByte_eq_and {a : Nat} {r : Region} (ha : regionOf a = some r) (hr : r ≠ .csr) (b : Byte) :
    ramByte r b = b &&& if 0x8000 ≤ a then 0x0F else 0xFF := by
  rcases regionOf_ram ha hr with ⟨hm, -, hhi⟩ | ⟨rfl, hlo, -⟩
  · rw [ramByte, if_neg hm, if_neg (by omega)]
    exact BitVec.and_allOnes.symm
  · rw [ramByte, if_pos rfl, if_pos hlo]

/-- Little-endian assembly as R82's sum. -/
theorem fromBytes_eq_sum (bs : List Byte) :
    fromBytes bs = ((List.range bs.length).map fun i => (bs.getD i 0).toNat * 256 ^ i).sum := by
  induction bs with
  | nil => rfl
  | cons b bs ih =>
    rw [fromBytes, ih, List.length_cons, List.range_succ_eq_map, List.map_cons, List.sum_cons, List.map_map,
      ← List.sum_map_mul_left]
    simp [Function.comp_def, pow_succ', mul_left_comm]

/-- The bytes a RAM write stores (R82, R86), read back. -/
theorem read_writeRange_toBytes (m : Memory) (a n : Nat) (w : Word) (f : Byte → Byte) (x : Nat) :
    (m.writeRange a ((toBytes w n).map f)).read x =
      if a ≤ x ∧ x < a + n then some (f (w.extractLsb' (8 * (x - a)) 8)) else m.read x := by
  have hlen : ((toBytes w n).map f).length = n := by simp [toBytes]
  rw [Memory.read_writeRange, hlen]
  split
  · rw [toBytes, List.map_map, List.getElem?_map, List.getElem?_range (by omega)]; rfl
  · rfl

/-- A RAM access of an idle QRENC is its read or its write (R320). -/
theorem ramAccess_of_idle {s : State} (hl : s.latch = none) (r : Region) (off n : Nat) :
    ramAccess s r off n .read = ramRead s r off n ∧ ∀ w, ramAccess s r off n (.write w) = ramWrite s r off n w := by
  simp [ramAccess, State.busy, hl]

/-- Settles O24: a legal access above the registers reaches one RAM region, whose bytes are the masked ones; a write
stores them one by one, and a range of written bytes reads as their sum. -/
theorem ramAccessesAreLittleEndian : Obligations.RamAccessesAreLittleEndian := by
  intro s a mask hw hok hlo hl hmask
  obtain ⟨r, ht⟩ := (ram_target_iff a).2 ⟨hok, hlo⟩
  obtain ⟨-, -, -, hr, hregion, -⟩ := accessTarget_eq_ram.1 ht
  have hbyte : ramByte r = fun b => b &&& mask := funext fun b => hmask ▸ ramByte_eq_and hregion hr b
  obtain ⟨hread, hwrite⟩ := ramAccess_of_idle hl r a.addr.toNat (accessBytes a)
  have hram : hostAccess s a = ramAccess s r a.addr.toNat (accessBytes a) a.op := by simp [hostAccess, ht]
  refine ⟨fun w hop => ?_, fun bs hop hlen hbs => ?_⟩
  · refine ⟨s.mem.writeRange a.addr.toNat ((toBytes w (accessBytes a)).map (ramByte r)), ?_, fun i hi => ?_,
      fun x hx => ?_⟩
    · rw [hram, hop, hwrite]; rfl
    · rw [read_writeRange_toBytes, if_pos ⟨by omega, by omega⟩, hbyte, Nat.add_sub_cancel_left]
    · rw [read_writeRange_toBytes, if_neg hx]
  · have hrange : s.mem.readRange a.addr.toNat (accessBytes a) = some bs :=
      (Memory.readRange_eq_some hw).2 ⟨hlen, hlen ▸ hbs⟩
    have hget : ∀ i, (bs.map (ramByte r)).getD i 0 = bs.getD i 0 &&& mask := fun i => by
      rw [hbyte]; cases h : bs[i]? <;> simp [List.getD_eq_getElem?_getD, h]
    rw [hram, hop, hread, ramRead, hrange]
    simp only [fromBytes_eq_sum, List.length_map, hget]
    rfl

end Sys2Proof.Machine
end

section
/-! PROOFS. The bytes a command stores to (R98, R158, R180, R190, R270, R312). -/

namespace Sys2Proof.Machine

open Sys2Proof Sys2Proof.Safety

theorem sameOutside_refl (m : Memory) (p : Nat → Prop) : SameOutside m m p := fun _ _ => rfl

theorem sameOutside_trans {m m' m'' : Memory} {p : Nat → Prop} (h : SameOutside m m' p) (h' : SameOutside m' m'' p) :
    SameOutside m m'' p := fun a ha => (h' a ha).trans (h a ha)

theorem sameOutside_mono {m m' : Memory} {p q : Nat → Prop} (hpq : ∀ a, p a → q a) (h : SameOutside m m' p) :
    SameOutside m m' q := fun a ha => h a fun hp => ha (hpq a hp)

theorem sameOutside_writeRange (m : Memory) (a : Nat) {bs : List Byte} {n : Nat} (h : bs.length ≤ n) :
    SameOutside m (m.writeRange a bs) fun x => Within x a n := by
  intro x hx
  rw [Memory.read_writeRange, if_neg fun hin => hx ⟨hin.1, by omega⟩]

/-- An offset that the claims do not count as a module of the symbol is none for the machine (R56, R85). -/
theorem inSymbol_eq_false {sd a : Nat} (h : ¬ InSymbol a sd) : inSymbol sd a = false := by
  by_contra hin
  obtain ⟨hr, hc, ha⟩ := eq_matAddr_of_inSymbol (Bool.eq_true_of_not_eq_false hin)
  exact h ⟨_, hr, _, hc, ha⟩

theorem sameOutside_placeModules (m : Memory) (sd : Nat) (ps : List (Nat × Bool)) :
    SameOutside m (placeModules m sd ps) fun a => InSymbol a sd :=
  fun _ ha => read_placeModules_outside m ps (inSymbol_eq_false ha)

theorem sameOutside_maskModules (m : Memory) (sd k : Nat) : SameOutside m (maskModules m sd k) fun a => InSymbol a sd :=
  fun _ ha => read_maskModules_outside m k (inSymbol_eq_false ha)

theorem sameOutside_writeEach (m : Memory) {sd : Nat} {ws : List Host.Cell} (h : ∀ c ∈ ws, inSymbol sd c.1 = true) :
    SameOutside m (m.writeEach ws) fun a => InSymbol a sd :=
  fun _ ha => read_writeEach_outside m h (inSymbol_eq_false ha)

/-- The modules of a symbol lie in the matrix RAM (R56, R85). -/
theorem within_of_inSymbol {sd a : Nat} (hs : sd ≤ 177) (h : InSymbol a sd) : Within a 0x8000 31329 := by
  obtain ⟨r, hr, c, hc, rfl⟩ := h
  exact ⟨by omega, by omega⟩

/-- The success of every command but ENCODE stores in its own store set alone. -/
theorem sameOutside_of_outcome {i : Instr} {s t : State} (hi : i ≠ .encode) (h : outcome i s = .ok t) :
    SameOutside s.mem t.mem (StoreSet i s.operands s) := by
  cases i with
  | nop => cases h; exact sameOutside_refl _ _
  | clear => cases h; exact sameOutside_refl _ _
  | gfMul a b => cases h; exact sameOutside_refl _ _
  | gfExp k => cases h; exact sameOutside_refl _ _
  | gfLog a => obtain ⟨-, h⟩ := checked_eq_ok.1 h; cases h; exact sameOutside_refl _ _
  | gfInv a => obtain ⟨-, h⟩ := checked_eq_ok.1 h; cases h; exact sameOutside_refl _ _
  | rsGen n => obtain ⟨-, rfl⟩ := doRsGen_eq_ok.1 h; exact sameOutside_refl _ _
  | rsSynd n => obtain ⟨-, _, -, _, -, rfl⟩ := doRsSynd_eq_ok.1 h; exact sameOutside_refl _ _
  | maskEval k => obtain ⟨-, -, -, _, -, rfl⟩ := doMaskEval_eq_ok.1 h; exact sameOutside_refl _ _
  | maskSearch => obtain ⟨-, -, _, -, rfl⟩ := doMaskSearch_eq_ok.1 h; exact sameOutside_refl _ _
  | bchFmt k e => obtain ⟨-, rfl⟩ := doBchFmt_eq_ok.1 h; exact sameOutside_refl _ _
  | bchVer v => obtain ⟨-, rfl⟩ := doBchVer_eq_ok.1 h; exact sameOutside_refl _ _
  | rsDiv =>
    obtain ⟨-, data, -, rfl⟩ := doRsDiv_eq_ok.1 h
    exact sameOutside_writeRange _ _ (by rw [length_rsRemainder, length_divisorTail]; exact Nat.min_le_left _ _)
  | rsEncodeAll =>
    obtain ⟨hv, data, -, rfl⟩ := doRsEncodeAll_eq_ok.1 h
    exact sameOutside_writeRange _ _ (length_blockEcc hv _ _).le
  | interleave =>
    obtain ⟨hv, data, hd, ecc, he, rfl⟩ := doInterleave_eq_ok.1 h
    exact sameOutside_writeRange _ _
      (length_interleaved hv _ (Memory.length_of_readRange hd) (Memory.length_of_readRange he)).le
  | mxFunc =>
    obtain ⟨-, rfl⟩ := doMxFunc_eq_ok.1 h
    exact sameOutside_writeRange _ _ (length_drawnMatrix _).le
  | mxPlace =>
    obtain ⟨-, -, _, -, -, _, -, rfl⟩ := doMxPlace_eq_ok.1 h
    exact sameOutside_placeModules _ _ _
  | maskApply k =>
    obtain ⟨-, -, -, -, rfl⟩ := doMaskApply_eq_ok.1 h
    exact sameOutside_maskModules _ _ _
  | fmtWrite k =>
    obtain ⟨hv, -, -, rfl⟩ := doFmtWrite_eq_ok.1 h
    rw [State.commit_mem]
    exact sameOutside_writeEach _ fun c => inSymbol_formatModules (side_le hv)
  | verWrite =>
    obtain ⟨hv, -, ⟨-, rfl⟩ | ⟨-, rfl⟩⟩ := doVerWrite_eq_ok.1 h
    · rw [State.commit_mem]
      exact sameOutside_writeEach _ fun c => inSymbol_versionModules (side_le hv)
    · exact sameOutside_refl _ _
  | encode => exact absurd rfl hi

/-- Commands one after the other store in any set that holds each one's store set. -/
theorem sameOutside_of_runAll {is : List Instr} {s t : State} {p : Nat → Prop}
    (hi : ∀ i ∈ is, i ≠ .encode ∧ ∀ (u : State) (a : Nat), StoreSet i s.operands u a → p a)
    (h : runAll is s = .ok t) : SameOutside s.mem t.mem p := by
  induction is generalizing s with
  | nil => cases h; exact sameOutside_refl _ _
  | cons i is ih =>
    obtain ⟨u, hu, ht⟩ := runAll_cons_eq_ok.1 h
    have hops : u.operands = s.operands := operands_of_commits (outcome_commits i s) hu
    obtain ⟨⟨hne, hset⟩, his⟩ := List.forall_mem_cons.1 hi
    exact sameOutside_trans (sameOutside_mono (hset s) (sameOutside_of_outcome hne hu)) (ih (by rwa [hops]) ht)

/-- The commands ENCODE runs store in its store set (R270, R312). -/
theorem storeSet_encodeSteps {o : Latch} (hv : legalVersion o.v = true) (s : State) {k : Byte} {i : Instr}
    (hi : i ∈ encodeSteps k) : i ≠ .encode ∧ ∀ (u : State) (a : Nat), StoreSet i o u a → StoreSet .encode o s a := by
  have hmatrix : ∀ a, InSymbol a (side o.v) → StoreSet .encode o s a :=
    fun a h => .inl (within_of_inSymbol (side_le hv).2 h)
  simp only [encodeSteps, List.mem_cons, List.not_mem_nil, or_false] at hi
  rcases hi with rfl | rfl | rfl | rfl | rfl | rfl | rfl | rfl <;> refine ⟨by simp, fun u a h => ?_⟩
  · exact .inr (.inl h)
  · exact .inr (.inr h)
  · exact .inl h
  · exact hmatrix a h
  · exact h.elim
  · exact hmatrix a h
  · exact hmatrix a h
  · exact hmatrix a h

/-- Settles O10: an error stores nothing, a single command stores in its own set, and ENCODE's eight commands in the
set that holds all of theirs. -/
theorem commandsStoreOnlyInTheirSet : Obligations.CommandsStoreOnlyInTheirSet := by
  intro i s o t hl h
  obtain rfl := operands_of_latch hl
  rcases exec_eq_next.1 h with ⟨u, hu, rfl⟩ | ⟨e, -, rfl⟩
  · rw [State.complete_mem]
    by_cases hi : i = .encode
    · subst hi
      obtain ⟨k, hk⟩ := runAll_of_encode hu
      have hv := (doEncode_eq_ok.1 hu).1
      exact sameOutside_of_runAll (fun i hi => storeSet_encodeSteps hv s hi) hk
    · exact sameOutside_of_outcome hi hu
  · exact sameOutside_refl _ _

end Sys2Proof.Machine
end

section
/-! PROOFS. The command words (R110, R111, R113, R114): the decoder inverts the encoder, and the legal words of the
format table are the commands' words. -/

namespace Sys2Proof

/-! ### The fields of a word as numbers -/

theorem toNat_opField (w : Word) : (opField w).toNat = w.toNat % 256 := by
  rw [opField, BitVec.extractLsb'_toNat, Nat.shiftRight_eq_div_pow, Nat.pow_zero, Nat.div_one]

theorem toNat_immA (w : Word) : (immA w).toNat = w.toNat / 256 % 256 := by
  rw [immA, BitVec.extractLsb'_toNat, Nat.shiftRight_eq_div_pow]

theorem toNat_immB (w : Word) : (immB w).toNat = w.toNat / 65536 % 256 := by
  rw [immB, BitVec.extractLsb'_toNat, Nat.shiftRight_eq_div_pow]

theorem toNat_zField (w : Word) : (zField w).toNat = w.toNat / 16777216 := by
  have := w.isLt
  rw [zField, BitVec.extractLsb'_toNat, Nat.shiftRight_eq_div_pow]
  omega

/-- The bits from `k` on are 0 exactly in the words below 2^k. -/
theorem extractLsb'_eq_zero_iff {k n : Nat} (h : k + n = 32) (w : Word) : w.extractLsb' k n = 0 ↔ w.toNat < 2 ^ k := by
  have hw : w.toNat / 2 ^ k < 2 ^ n := by
    rw [Nat.div_lt_iff_lt_mul (Nat.two_pow_pos k), ← Nat.pow_add, Nat.add_comm, h]
    exact w.isLt
  rw [← BitVec.toNat_inj, BitVec.extractLsb'_toNat, Nat.shiftRight_eq_div_pow, Nat.mod_eq_of_lt hw,
    BitVec.ofNat_eq_ofNat, BitVec.toNat_ofNat, Nat.zero_mod, Nat.div_eq_zero_iff]
  have := Nat.two_pow_pos k
  omega

/-! ### Decoding the word of a command -/

/-- A word is a command's exactly when its fields are (R110). -/
theorem eq_encode_iff {w : Word} {i : Instr} :
    w = encode i ↔ opField w = opcode i ∧ immA w = (immediates i).2 ∧ immB w = (immediates i).1 ∧ zField w = 0 := by
  have ho := (opcode i).isLt
  have ha := (immediates i).2.isLt
  have hb := (immediates i).1.isLt
  simp only [← BitVec.toNat_inj, toNat_encode, toNat_opField, toNat_immA, toNat_immB, toNat_zField,
    BitVec.ofNat_eq_ofNat, BitVec.toNat_ofNat]
  omega

theorem decode_encode (i : Instr) : decode (encode i) = .ok i := by
  obtain ⟨ho, ha, hb, hz⟩ := eq_encode_iff.1 (rfl : encode i = encode i)
  unfold decode
  rw [ho]
  cases i <;> simp [opcode, decodeN, decodeI8, decodeI16, ha, hb, hz, immediates]

/-- The decoder reads a command from its word alone (R111). -/
theorem decode_eq_ok_iff {w : Word} {i : Instr} : decode w = .ok i ↔ w = encode i := by
  refine ⟨fun h => eq_encode_iff.2 ⟨opField_of_decode h, ?_⟩, fun h => h ▸ decode_encode i⟩
  unfold decode at h
  split at h <;> simp only [decodeN_eq_ok, decodeI8_eq_ok, decodeI16_eq_ok, reduceCtorEq] at h <;>
    obtain ⟨hz, rfl⟩ := h <;> simp [immediates, hz]

/-- Settles O1: the fields of a command's word are the command's own OP and immediates, and the OP selects its row. -/
theorem decodeAfterEncode : Obligations.DecodeAfterEncode := decode_encode

/-- Settles O3: each of the twenty-one words is the encoding of its command. -/
theorem specWordsDecode : Obligations.SpecWordsDecode := by
  unfold Obligations.SpecWordsDecode
  simp only [decode_eq_ok_iff]
  decide

/-! ### Legal words -/

theorem legalWord_iff {w : Word} :
    legalWord w = true ↔ ∃ f, formatOf (opField w).toNat = some f ∧ w.toNat < 2 ^ f.usedBits := by
  rw [toNat_opField, legalWord]
  cases formatOf (w.toNat % 256) <;> simp

/-- The format table as three lists of OPs (R113). -/
theorem formatOf_eq_some_iff : ∀ op : Byte,
    (formatOf op.toNat = some .n ↔ op ∈ [0x00, 0x01, 0x11, 0x13, 0x18, 0x20, 0x21, 0x29, 0x33, 0x3F]) ∧
    (formatOf op.toNat = some .i8 ↔ op ∈ [0x09, 0x0A, 0x0B, 0x10, 0x12, 0x28, 0x2A, 0x31, 0x32]) ∧
    (formatOf op.toNat = some .i16 ↔ op ∈ [0x08, 0x30]) := by
  decide +kernel

/-- Every listed OP is a command's, with any immediates its format has (R111, R113). -/
theorem exists_instr_of_formatOf {op a b : Byte} {f : Format} (h : formatOf op.toNat = some f) (ha : f = .n → a = 0)
    (hb : f ≠ .i16 → b = 0) : ∃ i, opcode i = op ∧ immediates i = (b, a) := by
  obtain ⟨hn, hi8, hi16⟩ := formatOf_eq_some_iff op
  cases f with
  | n =>
    obtain rfl := ha rfl
    obtain rfl := hb (by simp)
    simp only [hn, List.mem_cons, List.not_mem_nil, or_false] at h
    rcases h with rfl | rfl | rfl | rfl | rfl | rfl | rfl | rfl | rfl | rfl
    exacts [⟨.nop, rfl, rfl⟩, ⟨.clear, rfl, rfl⟩, ⟨.rsDiv, rfl, rfl⟩, ⟨.rsEncodeAll, rfl, rfl⟩, ⟨.interleave, rfl, rfl⟩,
      ⟨.mxFunc, rfl, rfl⟩, ⟨.mxPlace, rfl, rfl⟩, ⟨.maskSearch, rfl, rfl⟩, ⟨.verWrite, rfl, rfl⟩, ⟨.encode, rfl, rfl⟩]
  | i8 =>
    obtain rfl := hb (by simp)
    simp only [hi8, List.mem_cons, List.not_mem_nil, or_false] at h
    rcases h with rfl | rfl | rfl | rfl | rfl | rfl | rfl | rfl | rfl
    exacts [⟨.gfExp a, rfl, rfl⟩, ⟨.gfLog a, rfl, rfl⟩, ⟨.gfInv a, rfl, rfl⟩, ⟨.rsGen a, rfl, rfl⟩,
      ⟨.rsSynd a, rfl, rfl⟩, ⟨.maskEval a, rfl, rfl⟩, ⟨.maskApply a, rfl, rfl⟩, ⟨.bchVer a, rfl, rfl⟩,
      ⟨.fmtWrite a, rfl, rfl⟩]
  | i16 =>
    simp only [hi16, List.mem_cons, List.not_mem_nil, or_false] at h
    rcases h with rfl | rfl
    exacts [⟨.gfMul a b, rfl, rfl⟩, ⟨.bchFmt a b, rfl, rfl⟩]

open Laws in
theorem legalWord_of_encode (i : Instr) : legalWord (encode i) = true := by
  cases i
  exacts [LegalEncoding.nop.2, LegalEncoding.clear.2, (LegalEncoding.gfMul _ _).2, (LegalEncoding.gfExp _).2,
    (LegalEncoding.gfLog _).2, (LegalEncoding.gfInv _).2, (LegalEncoding.rsGen _).2, LegalEncoding.rsDiv.2,
    (LegalEncoding.rsSynd _).2, LegalEncoding.rsEncodeAll.2, LegalEncoding.interleave.2, LegalEncoding.mxFunc.2,
    LegalEncoding.mxPlace.2, (LegalEncoding.maskEval _).2, LegalEncoding.maskSearch.2, (LegalEncoding.maskApply _).2,
    (LegalEncoding.bchFmt _ _).2, (LegalEncoding.bchVer _).2, (LegalEncoding.fmtWrite _).2, LegalEncoding.verWrite.2,
    LegalEncoding.encode.2]

/-- A word with no bit set above its format's fields has the fields its format lacks at 0 (R111). -/
theorem fields_eq_zero_of_lt {w : Word} {f : Format} (h : w.toNat < 2 ^ f.usedBits) :
    (f = .n → immA w = 0) ∧ (f ≠ .i16 → immB w = 0) ∧ zField w = 0 := by
  simp only [← BitVec.toNat_inj, toNat_immA, toNat_immB, toNat_zField, BitVec.ofNat_eq_ofNat, BitVec.toNat_ofNat]
  cases f <;> simp only [Format.usedBits] at h
  case n => exact ⟨fun _ => by omega, fun _ => by omega, by omega⟩
  case i8 => exact ⟨nofun, fun _ => by omega, by omega⟩
  case i16 => exact ⟨nofun, fun hf => absurd rfl hf, by omega⟩

/-- The legal words are the commands' words (R111, R113, R114). -/
theorem legalWord_iff_exists_encode {w : Word} : legalWord w = true ↔ ∃ i, w = encode i := by
  constructor
  · intro h
    obtain ⟨f, hf, hlt⟩ := legalWord_iff.1 h
    obtain ⟨ha, hb, hz⟩ := fields_eq_zero_of_lt hlt
    obtain ⟨i, ho, hi⟩ := exists_instr_of_formatOf hf ha hb
    exact ⟨i, eq_encode_iff.2 ⟨ho.symm, by rw [hi], by rw [hi], hz⟩⟩
  · rintro ⟨i, rfl⟩
    exact legalWord_of_encode i

/-- Settles O2: the decoder takes the commands' words, which are the legal ones. -/
theorem legalWordsAreTheCommands : Obligations.LegalWordsAreTheCommands := fun _ =>
  ⟨legalWord_iff_exists_encode.trans (exists_congr fun _ => decode_eq_ok_iff.symm),
    fun _ h => (decode_eq_ok_iff.1 h).symm⟩

/-- An illegal word is one the decoder rejects (R114). -/
theorem decode_of_legalWord_false {w : Word} (h : legalWord w = false) : ∃ e, decode w = .error e := by
  cases hd : decode w with
  | error e => exact ⟨e, rfl⟩
  | ok i =>
    rw [decode_eq_ok_iff.1 hd, legalWord_of_encode] at h
    cases h

/-- R114's condition, format by format. -/
theorem legalWord_eq_false_iff {w : Word} : legalWord w = false ↔
    (formatOf (opField w).toNat = some .n → ¬ w.toNat < 2 ^ 8) ∧
    (formatOf (opField w).toNat = some .i8 → ¬ w.toNat < 2 ^ 16) ∧
    (formatOf (opField w).toNat = some .i16 → ¬ w.toNat < 2 ^ 24) := by
  rw [← Bool.not_eq_true, legalWord_iff]
  constructor
  · intro h
    exact ⟨fun hf hlt => h ⟨.n, hf, hlt⟩, fun hf hlt => h ⟨.i8, hf, hlt⟩, fun hf hlt => h ⟨.i16, hf, hlt⟩⟩
  · rintro ⟨hn, hi8, hi16⟩ ⟨f, hf, hlt⟩
    cases f with
    | n => exact hn hf hlt
    | i8 => exact hi8 hf hlt
    | i16 => exact hi16 hf hlt

/-- The reserved ranges of the opcode map (R114). -/
theorem formatOf_reserved {op : Nat} (h : op ∈ [0x02, 0x03, 0x04, 0x05, 0x06, 0x07] ∨ (0x0C ≤ op ∧ op ≤ 0x0F) ∨
    (0x14 ≤ op ∧ op ≤ 0x17) ∨ (0x19 ≤ op ∧ op ≤ 0x1F) ∨ (0x22 ≤ op ∧ op ≤ 0x27) ∨ (0x2B ≤ op ∧ op ≤ 0x2F) ∨
    (0x34 ≤ op ∧ op ≤ 0x3E) ∨ 0x40 ≤ op) : formatOf op = none := by
  simp only [List.mem_cons, List.not_mem_nil, or_false] at h
  unfold formatOf
  rw [if_neg, if_neg, if_neg] <;> simp only [List.mem_cons, List.not_mem_nil, or_false] <;> omega

end Sys2Proof
end

section
/-! PROOFS. A command word from the host's write to the end of its flight (R34, R114, R117, R118). -/

namespace Sys2Proof.Machine

open Sys2Proof Sys2Proof.Safety

/-- An idle QRENC accepts the word a host writes to CMD (R117). -/
theorem hostAccess_cmdWrite_of_idle {s : State} (h : s.latch = none) (w : Word) :
    hostAccess s (wordWrite 0x008 w) = .next ((s.accept w).answer .written) := by
  refine (hostAccess_wordWrite s .cmd w).trans ?_
  simp [hostWriteCsr, writeCsr, State.issue, State.busy, h]

/-- A busy QRENC discards it and records the loss (R34, R35). -/
theorem hostAccess_cmdWrite_of_busy {s : State} (h : s.latch ≠ none) (w : Word) :
    hostAccess s (wordWrite 0x008 w) = .next (s.overrun.answer .written) := by
  refine (hostAccess_wordWrite s .cmd w).trans ?_
  simp [hostWriteCsr, writeCsr, State.issue, State.busy, Option.isSome_iff_ne_none.2 h]

theorem readData_cmd (s : State) : readData s 0x008 = some s.cmd := readData_of_idle (c := .cmd) (.inr rfl)

/-- Settles O12: the two ways a CMD write is taken, and CMD, which no command in flight hides, read before and after
reset. -/
theorem cmdWriteIssues : Obligations.CmdWriteIssues := fun s w =>
  ⟨fun h => hostAccess_cmdWrite_of_idle h w, fun h => hostAccess_cmdWrite_of_busy h w, readData_cmd s,
    readData_cmd State.reset⟩

/-- The engine's turn on a latched word completes it, with the word's OP and a code of R280, and empties the latch
(R37, R118): after a success with the command's writes, or with no other write after an error. -/
theorem engineStep_of_latch {s t : State} {o : Latch} (hl : s.latch = some o) (h : engineStep s = .next t) :
    (∃ u : State, t = u.complete (opField o.word) 0x00) ∨ ∃ e, t = s.complete (opField o.word) (errNumber e) := by
  cases hd : decode o.word with
  | error e =>
    rw [engineStep_of_illegal hl hd] at h
    cases h
    exact .inr ⟨.illegalCmd, rfl⟩
  | ok i =>
    rw [engineStep_of_decoded hl hd] at h
    rw [opField_of_decode hd]
    rcases exec_eq_next.1 h with ⟨u, -, rfl⟩ | ⟨e, -, rfl⟩
    · exact .inl ⟨u, rfl⟩
    · exact .inr ⟨e, rfl⟩

/-- Settles O5: both ways the engine's turn ends are a completion record of the word's OP. -/
theorem engineTurnEndsTheFlight : Obligations.EngineTurnEndsTheFlight := by
  intro s o t hl h
  rcases engineStep_of_latch hl h with ⟨u, rfl⟩ | ⟨e, rfl⟩
  · exact ⟨rfl, rfl, rfl, Nat.zero_le 7⟩
  · exact ⟨rfl, rfl, rfl, errNumber_le e⟩

/-- An illegal word completes with ILLEGAL_CMD alone (R114). -/
theorem engineStep_of_legalWord_false {s : State} {o : Latch} (hl : s.latch = some o) (hw : legalWord o.word = false) :
    engineStep s = .next (s.complete (opField o.word) 0x01) := by
  obtain ⟨e, hd⟩ := decode_of_legalWord_false hw
  exact engineStep_of_illegal hl hd

/-- Settles O6: the format table read as R114's condition, its reserved rows, the acceptance of any word, and the
engine's turn on a rejected one. -/
theorem illegalWordsComplete : Obligations.IllegalWordsComplete := by
  refine ⟨fun w => ?_, fun op hop w hw => ?_, fun w hw => ⟨fun s hl => ?_, fun s o hl ho => ?_⟩⟩
  · obtain ⟨hn, hi8, hi16⟩ := formatOf_eq_some_iff (opField w)
    rw [legalWord_eq_false_iff, hn, hi8, hi16]
    simp only [ne_eq, extractLsb'_eq_zero_iff (k := 8) (n := 24) rfl, extractLsb'_eq_zero_iff (k := 16) (n := 16) rfl,
      extractLsb'_eq_zero_iff (k := 24) (n := 8) rfl, imp_iff_not_or]
  · have hnone : formatOf (opField w).toNat = none := hw ▸ formatOf_reserved hop
    simp [legalWord_eq_false_iff, hnone]
  · exact ⟨_, hostAccess_cmdWrite_of_idle hl w, rfl⟩
  · subst ho
    exact engineStep_of_legalWord_false hl hw

end Sys2Proof.Machine
end

section
/-! PROOFS. Which commands can stop, and on what (R60, R118, R286). -/

namespace Sys2Proof.Machine

open Sys2Proof

/-- The outcome stops, if at all, on an unwritten byte (R60). -/
def StopsOnUnwritten (r : CmdOutcome) : Prop := ∀ f, r = .fault f → f = .uninitRead

theorem stopsOnUnwritten_ok (s : State) : StopsOnUnwritten (.ok s) := nofun

theorem stopsOnUnwritten_error (e : ErrCode) : StopsOnUnwritten (.error e) := nofun

theorem StopsOnUnwritten.checked {c : Option ErrCode} {r : CmdOutcome} (h : StopsOnUnwritten r) :
    StopsOnUnwritten (checked c r) := fun f hf => h f (checked_eq_fault.1 hf).2

theorem StopsOnUnwritten.withBytes {m : Memory} {a n : Nat} {k : List Byte → CmdOutcome}
    (h : ∀ bs, StopsOnUnwritten (k bs)) : StopsOnUnwritten (withBytes m a n k) := by
  intro f hf
  rcases withBytes_eq_fault.1 hf with ⟨-, hf⟩ | ⟨bs, -, hf⟩
  · exact hf
  · exact h bs f hf

theorem StopsOnUnwritten.withSymbol {m : Memory} {sd : Nat} {k : Grid → CmdOutcome}
    (h : ∀ g, StopsOnUnwritten (k g)) : StopsOnUnwritten (withSymbol m sd k) := by
  intro f hf
  rcases withSymbol_eq_fault.1 hf with ⟨-, hf⟩ | ⟨g, -, hf⟩
  · exact hf
  · exact h g f hf

theorem StopsOnUnwritten.andThen {r : CmdOutcome} {k : State → CmdOutcome} (h : StopsOnUnwritten r)
    (hk : ∀ s, StopsOnUnwritten (k s)) : StopsOnUnwritten (r.andThen k) := by
  cases r with
  | ok s => exact hk s
  | error e => exact stopsOnUnwritten_error e
  | fault f => exact h

theorem doRsEncodeAll_stopsOnUnwritten (o : Latch) (s : State) : StopsOnUnwritten (doRsEncodeAll o s) :=
  (StopsOnUnwritten.withBytes fun _ => stopsOnUnwritten_ok _).checked

theorem doInterleave_stopsOnUnwritten (o : Latch) (s : State) : StopsOnUnwritten (doInterleave o s) :=
  (StopsOnUnwritten.withBytes fun _ => .withBytes fun _ => stopsOnUnwritten_ok _).checked

theorem doMxFunc_stopsOnUnwritten (o : Latch) (s : State) : StopsOnUnwritten (doMxFunc o s) :=
  (stopsOnUnwritten_ok _).checked

theorem doMxPlace_stopsOnUnwritten (o : Latch) (s : State) : StopsOnUnwritten (doMxPlace o s) := by
  refine (StopsOnUnwritten.checked (.withSymbol fun g => ?_)).checked
  split
  · exact stopsOnUnwritten_error _
  · exact .withBytes fun _ => stopsOnUnwritten_ok _

theorem doMaskSearch_stopsOnUnwritten (o : Latch) (s : State) : StopsOnUnwritten (doMaskSearch o s) :=
  (StopsOnUnwritten.withSymbol fun _ => stopsOnUnwritten_ok _).checked.checked

theorem doMaskApply_stopsOnUnwritten (k : Nat) (o : Latch) (s : State) : StopsOnUnwritten (doMaskApply k o s) :=
  (StopsOnUnwritten.withSymbol fun _ => stopsOnUnwritten_ok _).checked.checked.checked

theorem doFmtWrite_stopsOnUnwritten (k : Nat) (o : Latch) (s : State) : StopsOnUnwritten (doFmtWrite k o s) :=
  (stopsOnUnwritten_ok _).checked.checked.checked

theorem doVerWrite_stopsOnUnwritten (o : Latch) (s : State) : StopsOnUnwritten (doVerWrite o s) := by
  refine StopsOnUnwritten.checked (.checked ?_)
  split <;> exact stopsOnUnwritten_ok _

theorem doEncode_stopsOnUnwritten (o : Latch) (s : State) : StopsOnUnwritten (doEncode o s) :=
  ((doRsEncodeAll_stopsOnUnwritten o s).andThen fun _ => (doInterleave_stopsOnUnwritten o _).andThen fun _ =>
    (doMxFunc_stopsOnUnwritten o _).andThen fun _ => (doMxPlace_stopsOnUnwritten o _).andThen fun _ =>
    (doMaskSearch_stopsOnUnwritten o _).andThen fun _ => (doMaskApply_stopsOnUnwritten _ o _).andThen fun _ =>
    (doFmtWrite_stopsOnUnwritten _ o _).andThen fun _ => doVerWrite_stopsOnUnwritten o _).checked

theorem outcome_stopsOnUnwritten (i : Instr) (s : State) : StopsOnUnwritten (outcome i s) := by
  cases i with
  | nop | clear | gfMul | gfExp => exact stopsOnUnwritten_ok _
  | gfLog | gfInv | rsGen | bchFmt | bchVer => exact (stopsOnUnwritten_ok _).checked
  | rsDiv => exact (StopsOnUnwritten.withBytes fun _ => stopsOnUnwritten_ok _).checked
  | rsSynd n => exact (StopsOnUnwritten.withBytes fun _ => .withBytes fun _ => stopsOnUnwritten_ok _).checked
  | maskEval k => exact (StopsOnUnwritten.withSymbol fun _ => stopsOnUnwritten_ok _).checked.checked.checked
  | rsEncodeAll => exact doRsEncodeAll_stopsOnUnwritten _ s
  | interleave => exact doInterleave_stopsOnUnwritten _ s
  | mxFunc => exact doMxFunc_stopsOnUnwritten _ s
  | mxPlace => exact doMxPlace_stopsOnUnwritten _ s
  | maskSearch => exact doMaskSearch_stopsOnUnwritten _ s
  | maskApply k => exact doMaskApply_stopsOnUnwritten _ _ s
  | fmtWrite k => exact doFmtWrite_stopsOnUnwritten _ _ s
  | verWrite => exact doVerWrite_stopsOnUnwritten _ s
  | encode => exact doEncode_stopsOnUnwritten _ s

/-- The commands that read no RAM are checks and a success (R118, R119). -/
theorem outcome_ne_fault {i : Instr} (hi : opcode i ∉ [0x11, 0x12, 0x13, 0x18, 0x21, 0x28, 0x29, 0x2A, 0x3F])
    (s : State) (f : Fault) : outcome i s ≠ .fault f := by
  cases i with
  | rsDiv | rsSynd | rsEncodeAll | interleave | mxPlace | maskEval | maskSearch | maskApply | encode =>
    exact absurd (by simp [opcode]) hi
  | nop | clear | gfMul | gfExp => exact nofun
  | gfLog | gfInv | rsGen | mxFunc | bchFmt | bchVer => exact fun h => nomatch (checked_eq_fault.1 h).2
  | fmtWrite k => simp [outcome, doFmtWrite]
  | verWrite =>
    simp only [outcome, doVerWrite, ne_eq, checked_eq_fault]
    split <;> simp

/-- A command whose outcome is no fault completes. -/
theorem exec_completes {i : Instr} {s : State} (h : ∀ f, outcome i s ≠ .fault f) : ∃ t, exec i s = .next t := by
  rw [exec_eq_outcome]
  cases ho : outcome i s with
  | ok t => exact ⟨_, rfl⟩
  | error e => exact ⟨_, rfl⟩
  | fault f => exact absurd ho (h f)

/-- Settles O9: a command completes unless its outcome is a fault, which only an unwritten byte gives, and none does to
the commands that read no RAM. -/
theorem commandsStopOnlyOnUnwrittenBytes : Obligations.CommandsStopOnlyOnUnwrittenBytes := by
  refine fun i s => ⟨?_, fun hi => exec_completes (outcome_ne_fault hi s)⟩
  by_cases h : ∃ f, outcome i s = .fault f
  · obtain ⟨f, hf⟩ := h
    obtain rfl := outcome_stopsOnUnwritten i s f hf
    exact .inr (by rw [exec_eq_outcome, hf]; rfl)
  · exact .inl (exec_completes (not_exists.1 h))

end Sys2Proof.Machine
end

section
/-! PROOFS. The free data modules along the zigzag (R56, R201), counted over all rows and columns but column 6. -/

namespace Sys2Proof.Machine

open Sys2Proof Sys2Proof.Safety

theorem pairColumns_zero (fuel : Nat) : pairColumns fuel 0 = [] := by cases fuel <;> rfl

/-- The pairs hold every column up to `right` but column 6, which the loop steps over: the right columns are even from
6 on, and odd below (R201). -/
theorem exists_mem_pairColumns_iff {fuel right c : Nat} (hf : right ≤ fuel)
    (hpar : right % 2 = if 6 ≤ right then 0 else 1) :
    (∃ x ∈ pairColumns fuel right, c = x ∨ c = x - 1) ↔ c ≤ right ∧ c ≠ 6 := by
  induction fuel generalizing right with
  | zero => obtain rfl : right = 0 := Nat.le_zero.1 hf; cases hpar
  | succ fuel ih =>
    have hpos : ¬ right < 1 := by split at hpar <;> omega
    unfold pairColumns
    simp only [if_neg hpos, List.mem_cons, exists_eq_or_imp]
    by_cases h1 : right = 1
    · subst h1
      simp only [OfNat.one_ne_ofNat, if_false, Nat.reduceSub, pairColumns_zero, List.not_mem_nil, false_and,
        exists_false, or_false]
      omega
    · rw [ih] <;> split_ifs at hpar ⊢ <;> omega

/-- The path visits every module but those of column 6 (R201). -/
theorem mem_zigzagPath {s : Nat} (hs : 7 ≤ s) (hodd : s % 2 = 1) {p : Nat × Nat} :
    p ∈ zigzagPath s ↔ (p.1 < s ∧ p.2 < s) ∧ p.2 ≠ 6 := by
  have hpar : (s - 1) % 2 = if 6 ≤ s - 1 then 0 else 1 := by rw [if_pos (by omega)]; omega
  have hcol := exists_mem_pairColumns_iff (fuel := s) (c := p.2) (Nat.sub_le s 1) hpar
  have hmem : p ∈ zigzagPath s ↔ p.1 < s ∧ ∃ x ∈ pairColumns s (s - 1), p.2 = x ∨ p.2 = x - 1 := by
    simp only [zigzagPath, List.mem_flatMap, (pairRows_perm s _).mem_iff, List.mem_range, List.mem_cons,
      List.not_mem_nil, or_false, Prod.ext_iff]
    grind
  rw [hmem, hcol, and_assoc, Nat.le_sub_one_iff_lt (by omega)]

theorem zigzagPath_perm {s : Nat} (hs : 7 ≤ s) (hodd : s % 2 = 1) :
    (zigzagPath s).Perm ((List.range s ×ˢ List.range s).filter fun p => p.2 != 6) := by
  refine (List.perm_ext_iff_of_nodup (nodup_zigzagPath s) ((List.nodup_range.product List.nodup_range).filter _)).2
    fun p => ?_
  rw [mem_zigzagPath hs hodd, List.mem_filter, bne_iff_ne, List.mem_product, List.mem_range, List.mem_range]

/-- A byte is a free data module's exactly when its bits[3:1] are 0 (R56). -/
theorem isFree_eq : ∀ b : Byte, isFree b = (b &&& 0x0E == 0) := by decide +kernel

/-- The count of the claims, along the cells of the symbol. -/
theorem freeModules_eq_countP (m : Memory) (n : Nat) : freeModules m n =
    (List.range n ×ˢ List.range n).countP fun p =>
      p.2 != 6 && (moduleAt m p.1 p.2).any fun b => b &&& 0x0E == 0 := by
  change _ = ((List.range n).flatMap fun r => (List.range n).map (Prod.mk r)).countP _
  rw [freeModules, List.countP_flatMap]
  simp only [Function.comp_def, List.countP_map]

/-- MX_PLACE's count is the number of free modules outside column 6 (R200, R201). -/
theorem length_zigzag {m : Memory} (hw : m.wf) {v : Nat} (hv : 1 ≤ v) {g : Grid}
    (hg : readSymbol m (side v) = some g) : (zigzag (side v) g).length = freeModules m (side v) := by
  have hs : 7 ≤ side v ∧ side v % 2 = 1 := by unfold side; omega
  obtain ⟨-, -, hread⟩ := (readSymbol_eq_some hw).1 hg
  rw [zigzag, ← List.countP_eq_length_filter, (zigzagPath_perm hs.1 hs.2).countP_eq, List.countP_filter,
    freeModules_eq_countP]
  refine List.countP_congr fun p hp => ?_
  rw [List.mem_product, List.mem_range, List.mem_range] at hp
  have hmod : moduleAt m p.1 p.2 = some (gridAt g p.1 p.2) := hread _ _ hp.1 hp.2
  rw [hmod, Option.any_some, isFree_eq, Bool.and_comm]

end Sys2Proof.Machine
end

section
/-! PROOFS. The error conditions (R119, R120, R281): the code of every command's outcome is that of the first condition
in its row. -/

namespace Sys2Proof.Machine

open Sys2Proof Sys2Proof.Safety

/-- The code an outcome is recorded with (R37, R280); a model-only fault records none. -/
def errorCode : CmdOutcome → Byte
  | .error e => errNumber e
  | .ok _ | .fault _ => 0x00

@[simp] theorem errorCode_error (e : ErrCode) : errorCode (.error e) = errNumber e := rfl

@[simp] theorem errorCode_ok (s : State) : errorCode (.ok s) = 0x00 := rfl

@[simp] theorem errorCode_fault (f : Fault) : errorCode (.fault f) = 0x00 := rfl

@[simp] theorem firstCode_nil : firstCode [] = 0x00 := rfl

@[simp] theorem firstCode_cons (b : Bool) (code : Byte) (rest : List (Bool × Byte)) :
    firstCode ((b, code) :: rest) = if b then code else firstCode rest := rfl

theorem ne_error_of_errorCode {r : CmdOutcome} (h : errorCode r = 0x00) (e : ErrCode) : r ≠ .error e := by
  rintro rfl
  exact errNumber_ne_zero e h

theorem exists_error_of_errorCode {r : CmdOutcome} (h : errorCode r ≠ 0x00) :
    ∃ e, r = .error e ∧ errNumber e = errorCode r := by
  cases r with
  | error e => exact ⟨e, rfl, rfl⟩
  | ok s => exact absurd rfl h
  | fault f => exact absurd rfl h

/-! ### One check and the next -/

/-- A check that is a condition of the table comes before whatever follows it (R120). -/
theorem errorCode_checked {c : Option ErrCode} {b : Bool} {e : ErrCode} {r : CmdOutcome} {rest : List (Bool × Byte)}
    (hc : c = if b then some e else none) (h : c = none → errorCode r = firstCode rest) :
    errorCode (checked c r) = firstCode ((b, errNumber e) :: rest) := by
  cases b with
  | true => obtain rfl := hc; rfl
  | false => exact hc ▸ h hc

theorem errorCode_checked_none {c : Option ErrCode} (hc : c = none) (r : CmdOutcome) :
    errorCode (checked c r) = errorCode r := by
  rw [hc, checked_none]

/-- An error met on the way is a check of its own. -/
theorem ite_error_eq_checked (p : Prop) [Decidable p] (e : ErrCode) (r : CmdOutcome) :
    (if p then .error e else r) = checked (if p then some e else none) r := by
  split <;> rfl

theorem checked_firstError (c d : Option ErrCode) (r : CmdOutcome) :
    checked (firstError c d) r = checked c (checked d r) := by
  cases c <;> rfl

theorem firstError_if (b b' : Bool) (e : ErrCode) :
    firstError (if b then some e else none) (if b' then some e else none) = if b || b' then some e else none := by
  cases b <;> cases b' <;> rfl

theorem errorCode_withBytes {m : Memory} {a n : Nat} {k : List Byte → CmdOutcome} (h : ∀ bs, errorCode (k bs) = 0x00) :
    errorCode (withBytes m a n k) = 0x00 := by
  unfold withBytes
  split
  · exact h _
  · rfl

theorem errorCode_withSymbol {m : Memory} {sd : Nat} {k : Grid → CmdOutcome}
    (h : ∀ g, readSymbol m sd = some g → errorCode (k g) = 0x00) : errorCode (withSymbol m sd k) = 0x00 := by
  unfold withSymbol
  split
  · next g hg => exact h g hg
  · rfl

theorem errorCode_andThen {r : CmdOutcome} {k : State → CmdOutcome} (h : errorCode r = 0x00)
    (hk : ∀ s, r = .ok s → errorCode (k s) = 0x00) : errorCode (r.andThen k) = 0x00 := by
  cases r with
  | ok s => exact hk s rfl
  | error e => exact h
  | fault f => rfl

/-! ### The checks as conditions of the table -/

theorem badConfig_eq_false_iff {o : Latch} : badConfig o = false ↔ legalVersion o.v = true := by
  rw [legalVersion_iff]
  simp [badConfig, Latch.v, Nat.one_le_iff_ne_zero]

theorem checkConfig_eq (o : Latch) : checkConfig o = if badConfig o then some .badConfig else none := by
  cases h : badConfig o with
  | false => exact checkConfig_eq_none.2 (badConfig_eq_false_iff.1 h)
  | true =>
    rw [checkConfig, if_neg fun hv => ?_]
    · rfl
    · rw [badConfig_eq_false_iff.2 hv] at h
      cases h

theorem checkMask_eq (k : Nat) : checkMask k = if decide (7 < k) then some .badOperand else none := by
  simp [checkMask]

theorem checkDegree_eq (n : Nat) : checkDegree n = if n == 0 || decide (30 < n) then some .badOperand else none := by
  simp [checkDegree]

theorem checkRanges_eq (s len d n : Nat) : checkRanges s len d n =
    if decide (4096 < s + len) || decide (4096 < d + n) || decide (255 < len + n) then some .badOperand else none := by
  simp [checkRanges, or_assoc]

theorem checkGenerator_eq (s : State) : checkGenerator s = if s.res.genDeg == 0 then some .noGenerator else none := by
  simp [checkGenerator]

theorem checkGfZero_eq (a : Byte) : checkGfZero a = if a == 0 then some .gfZero else none := by
  simp [checkGfZero]

theorem checkBchFmt_eq (k e : Nat) :
    checkBchFmt k e = if decide (7 < k) || decide (3 < e) then some .badOperand else none := by
  simp [checkBchFmt]

theorem checkBchVer_eq (v : Nat) :
    checkBchVer v = if decide (v < 7) || decide (40 < v) then some .badOperand else none := by
  simp [checkBchVer]

theorem checkDrawn_eq (o : Latch) (s : State) : checkDrawn o s = if notDrawn o s then some .sequence else none := by
  rw [checkDrawn, notDrawn, bne]
  cases s.res.funcDone <;> cases h : s.res.mxVersion == o.version <;> simp_all

theorem checkUnplaced_eq (o : Latch) (s : State) :
    checkUnplaced o s = if notDrawn o s || s.res.placed then some .sequence else none := by
  rw [checkUnplaced, checkDrawn_eq]
  cases s.res.placed <;> simp

/-! ### The commands -/

/-- A symbol all of whose modules are written is one the engine can read (R60, R85). -/
theorem symbolWritten_iff {m : Memory} (hw : m.wf) (n : Nat) : SymbolWritten m n ↔ (readSymbol m n).isSome = true := by
  rw [readSymbol_isSome hw]
  exact ⟨fun h r c hr hc => h r hr c hc, fun h r hr c hc => h r c hr hc⟩

theorem errorCode_doMxPlace {s : State} (hw : s.mem.wf) (o : Latch) :
    errorCode (doMxPlace o s) = firstCode (conditions .mxPlace o s) := by
  refine errorCode_checked (checkConfig_eq o) fun hv => errorCode_checked (checkUnplaced_eq o s) fun _ => ?_
  have hv : 1 ≤ o.v := (legalVersion_iff.1 (checkConfig_eq_none.1 hv)).1
  have hwritten := symbolWritten_iff hw (side o.v)
  cases hg : readSymbol s.mem (side o.v) with
  | none =>
    rw [hg] at hwritten
    simp [withSymbol, hg, hwritten]
  | some g =>
    rw [hg] at hwritten
    rw [withSymbol_of_some hg, length_zigzag hw hv hg, ite_error_eq_checked]
    refine errorCode_checked (e := .placeMismatch) (rest := []) ?_ fun _ => errorCode_withBytes fun _ => rfl
    simp [hwritten]

/-- MX_FUNC draws a symbol MX_PLACE finds no fault with: drawn, unplaced, and with as many free modules as there are
bits to place (R198, R200). -/
theorem errorCode_doMxPlace_of_drawn {o : Latch} {s t : State} (hw : s.mem.wf) (h : doMxFunc o s = .ok t) :
    errorCode (doMxPlace o t) = 0x00 := by
  obtain ⟨hv, rfl⟩ := doMxFunc_eq_ok.1 h
  have hgrid := readSymbol_drawn hw hv
  have hcount := length_zigzag (Memory.writeRange_wf hw _ _) (legalVersion_iff.1 hv).1 hgrid
  rw [length_zigzag_drawn hv] at hcount
  rw [errorCode_doMxPlace (Memory.writeRange_wf hw _ _)]
  simp [conditions, badConfig_eq_false_iff.2 hv, notDrawn, ← hcount]

theorem errorCode_doMaskSearch (o : Latch) (s : State) :
    errorCode (doMaskSearch o s) = firstCode [(badConfig o, 0x02), (notDrawn o s, 0x06)] :=
  errorCode_checked (checkConfig_eq o) fun _ => errorCode_checked (checkDrawn_eq o s) fun _ =>
    errorCode_withSymbol fun _ _ => rfl

theorem errorCode_doMaskApply (k : Nat) (o : Latch) (s : State) :
    errorCode (doMaskApply k o s) = firstCode [(badConfig o, 0x02), (7 < k, 0x03), (notDrawn o s, 0x06)] :=
  errorCode_checked (checkConfig_eq o) fun _ => errorCode_checked (checkMask_eq k) fun _ =>
    errorCode_checked (checkDrawn_eq o s) fun _ => errorCode_withSymbol fun _ _ => rfl

theorem errorCode_doFmtWrite (k : Nat) (o : Latch) (s : State) :
    errorCode (doFmtWrite k o s) = firstCode [(badConfig o, 0x02), (7 < k, 0x03), (notDrawn o s, 0x06)] :=
  errorCode_checked (checkConfig_eq o) fun _ => errorCode_checked (checkMask_eq k) fun _ =>
    errorCode_checked (checkDrawn_eq o s) fun _ => rfl

theorem errorCode_doVerWrite (o : Latch) (s : State) :
    errorCode (doVerWrite o s) = firstCode [(badConfig o, 0x02), (notDrawn o s, 0x06)] := by
  refine errorCode_checked (checkConfig_eq o) fun _ => errorCode_checked (checkDrawn_eq o s) fun _ => ?_
  split <;> rfl

/-! A command that needs a drawn symbol leaves it drawn. -/

theorem notDrawn_of_doMxPlace {o : Latch} {s t : State} (h : doMxPlace o s = .ok t) : notDrawn o t = false := by
  obtain ⟨-, ⟨-, hf, hv⟩, _, -, -, _, -, rfl⟩ := doMxPlace_eq_ok.1 h
  simp [notDrawn, hf, hv]

theorem notDrawn_of_doMaskSearch {o : Latch} {s t : State} (h : doMaskSearch o s = .ok t) : notDrawn o t = false := by
  obtain ⟨-, ⟨hf, hv⟩, _, -, rfl⟩ := doMaskSearch_eq_ok.1 h
  simp [notDrawn, hf, hv]

theorem notDrawn_of_doMaskApply {k : Nat} {o : Latch} {s t : State} (h : doMaskApply k o s = .ok t) :
    notDrawn o t = false := by
  obtain ⟨-, -, ⟨hf, hv⟩, -, rfl⟩ := doMaskApply_eq_ok.1 h
  simp [notDrawn, hf, hv]

theorem notDrawn_of_doFmtWrite {k : Nat} {o : Latch} {s t : State} (h : doFmtWrite k o s = .ok t) :
    notDrawn o t = false := by
  obtain ⟨-, -, ⟨hf, hv⟩, rfl⟩ := doFmtWrite_eq_ok.1 h
  simp [notDrawn, hf, hv]

/-- ENCODE's steps meet no condition after its own check: MX_FUNC draws the symbol that the later ones need, none of
them undoes it, and the mask is a chosen one (R270). -/
theorem errorCode_doEncode {s : State} (hw : s.mem.wf) (o : Latch) :
    errorCode (doEncode o s) = firstCode (conditions .encode o s) := by
  refine errorCode_checked (checkConfig_eq o) fun hc => ?_
  have hbad : badConfig o = false := badConfig_eq_false_iff.2 (checkConfig_eq_none.1 hc)
  have hmask : ∀ k : BitVec 3, ¬ 7 < k.toNat := fun k => by have := k.isLt; omega
  refine errorCode_andThen ?_ fun s1 h1 => errorCode_andThen ?_ fun s2 h2 => errorCode_andThen ?_ fun s3 h3 =>
    errorCode_andThen ?_ fun s4 h4 => errorCode_andThen ?_ fun s5 h5 => errorCode_andThen ?_ fun s6 h6 =>
    errorCode_andThen ?_ fun s7 h7 => ?_
  · exact (errorCode_checked_none hc _).trans (errorCode_withBytes fun _ => rfl)
  · exact (errorCode_checked_none hc _).trans (errorCode_withBytes fun _ => errorCode_withBytes fun _ => rfl)
  · exact errorCode_checked_none hc _
  · obtain ⟨-, _, -, rfl⟩ := doRsEncodeAll_eq_ok.1 h1
    obtain ⟨-, _, -, _, -, rfl⟩ := doInterleave_eq_ok.1 h2
    exact errorCode_doMxPlace_of_drawn (Memory.writeRange_wf (Memory.writeRange_wf hw _ _) _ _) h3
  · simp [errorCode_doMaskSearch, hbad, notDrawn_of_doMxPlace h4]
  · simp [errorCode_doMaskApply, hbad, hmask, notDrawn_of_doMaskSearch h5]
  · simp [errorCode_doFmtWrite, hbad, hmask, notDrawn_of_doMaskApply h6]
  · simp [errorCode_doVerWrite, hbad, notDrawn_of_doFmtWrite h7]

/-- Every command's outcome has the code of the first condition of its row that holds (R120, R281). -/
theorem errorCode_outcome {s : State} (hw : s.mem.wf) (i : Instr) :
    errorCode (outcome i s) = firstCode (conditions i s.operands s) := by
  cases i with
  | nop | clear | gfMul | gfExp => rfl
  | gfLog a | gfInv a => exact errorCode_checked (checkGfZero_eq a) fun _ => rfl
  | rsGen n => exact errorCode_checked (checkDegree_eq _) fun _ => rfl
  | rsDiv =>
    rw [outcome, doRsDiv, checkRsDiv, checked_firstError]
    exact errorCode_checked (checkGenerator_eq s) fun _ => errorCode_checked (checkRanges_eq _ _ _ _) fun _ =>
      errorCode_withBytes fun _ => rfl
  | rsSynd n =>
    refine errorCode_checked (e := .badOperand) (rest := []) ?_ fun _ => errorCode_withBytes fun _ =>
      errorCode_withBytes fun _ => rfl
    rw [checkRsSynd, checkDegree_eq, checkRanges_eq, firstError_if]
    simp only [Bool.or_assoc, immNat]
    rfl
  | rsEncodeAll => exact errorCode_checked (checkConfig_eq _) fun _ => errorCode_withBytes fun _ => rfl
  | interleave =>
    exact errorCode_checked (checkConfig_eq _) fun _ => errorCode_withBytes fun _ => errorCode_withBytes fun _ => rfl
  | mxFunc => exact errorCode_checked (checkConfig_eq _) fun _ => rfl
  | mxPlace => exact errorCode_doMxPlace hw _
  | maskEval k =>
    exact errorCode_checked (checkConfig_eq _) fun _ => errorCode_checked (checkMask_eq _) fun _ =>
      errorCode_checked (checkDrawn_eq _ _) fun _ => errorCode_withSymbol fun _ _ => rfl
  | maskSearch => exact errorCode_doMaskSearch _ s
  | maskApply k => exact errorCode_doMaskApply _ _ s
  | bchFmt k e => exact errorCode_checked (checkBchFmt_eq _ _) fun _ => rfl
  | bchVer v => exact errorCode_checked (checkBchVer_eq _) fun _ => rfl
  | fmtWrite k => exact errorCode_doFmtWrite _ _ s
  | verWrite => exact errorCode_doVerWrite _ s
  | encode => exact errorCode_doEncode hw _

/-- The code of a latched command's row, its word being decoded. -/
theorem expectedCode_of_decoded {o : Latch} {i : Instr} (hd : decode o.word = .ok i) (s : State) :
    expectedCode o s = firstCode (conditions i o s) := by
  have hw : legalWord o.word = true := by rw [decode_eq_ok_iff.1 hd, legalWord_of_encode]
  simp [expectedCode, hw, hd]

/-- Settles O8: an illegal word completes with ILLEGAL_CMD, and a command with its outcome's code, which is that of its
row. -/
theorem errorsFollowTheTable : Obligations.ErrorsFollowTheTable := by
  intro s o hw hl
  cases hd : decode o.word with
  | error e =>
    have hcode : expectedCode o s = 0x01 := by simp [expectedCode, hd]
    rw [hcode, engineStep_of_illegal hl hd]
    exact ⟨fun _ => rfl, fun h => absurd h (by decide)⟩
  | ok i =>
    obtain rfl := operands_of_latch hl
    have hcode : expectedCode s.operands s = errorCode (outcome i s) :=
      (expectedCode_of_decoded hd s).trans (errorCode_outcome hw i).symm
    rw [hcode, engineStep_of_decoded hl hd]
    refine ⟨fun h => ?_, fun h t ht => ?_⟩
    · obtain ⟨e, he, hn⟩ := exists_error_of_errorCode h
      rw [← hn, exec_eq_outcome, he, ← opField_of_decode hd]
      rfl
    · rcases exec_eq_next.1 ht with ⟨u, -, rfl⟩ | ⟨e, he, -⟩
      · rfl
      · exact absurd he (ne_error_of_errorCode h e)

end Sys2Proof.Machine
end

section
/-! PROOFS. The control and GF(256) commands (R140, R141, R150 to R153, R155): α is primitive, so that LOG finds every
byte but 0 and the power it leads to inverts it. -/

namespace Sys2Proof.Machine

open Sys2Proof

/-! ### The powers of α -/

/-- The set of the bytes α^0 to α^(n − 1), as the set bits of one number. -/
def powerSet : Nat → Nat
  | 0 => 0
  | n + 1 => powerSet n ||| 2 ^ (gfExp n).toNat

theorem testBit_powerSet {n i : Nat} : (powerSet n).testBit i = true ↔ ∃ k < n, (gfExp k).toNat = i := by
  induction n with
  | zero => simp [powerSet]
  | succ n ih =>
    simp only [powerSet, Nat.testBit_or, Nat.testBit_two_pow, ih, Bool.or_eq_true, decide_eq_true_eq]
    exact Nat.exists_lt_succ_right.symm

/-- α is primitive (R150): every byte but 0 is one of its first 255 powers. -/
theorem testBit_powerSet_255 : ∀ a : Byte, a ≠ 0 → (powerSet 255).testBit a.toNat = true := by decide +kernel

theorem exists_gfExp {a : Byte} (ha : a ≠ 0) : ∃ k < 255, gfExp k = a := by
  obtain ⟨k, hk, hka⟩ := testBit_powerSet.1 (testBit_powerSet_255 a ha)
  exact ⟨k, hk, BitVec.eq_of_toNat_eq hka⟩

/-! ### The logarithm and the inverse -/

/-- The search from α^k finds `a` if one of the powers it tries is `a`. -/
theorem gfLogFrom_spec {a : Byte} {fuel k j : Nat} (hkj : k ≤ j) (hj : j < k + fuel) (ha : gfExp j = a) :
    gfLogFrom a fuel k (gfExp k) < k + fuel ∧ gfExp (gfLogFrom a fuel k (gfExp k)) = a := by
  induction fuel generalizing k with
  | zero => omega
  | succ fuel ih =>
    rw [gfLogFrom]
    split
    · next hk => exact ⟨by omega, hk⟩
    · next hk =>
      have hne : k ≠ j := by rintro rfl; exact hk ha
      obtain ⟨hlt, hexp⟩ := ih (k := k + 1) (by omega) (by omega)
      exact ⟨hlt.trans_eq (by omega), hexp⟩

/-- LOG of a byte but 0 is its exponent below 255 (R150). -/
theorem gfLog_spec {a : Byte} (ha : a ≠ 0) : gfLog a < 255 ∧ gfExp (gfLog a) = a := by
  obtain ⟨k, hk, hka⟩ := exists_gfExp ha
  exact gfLogFrom_spec (fuel := 255) k.zero_le hk hka

/-- Opposite exponents give inverse powers (R155). -/
theorem gfMul_gfExp_opposite : ∀ k < 255, gfMul (gfExp k) (gfExp ((255 - k) % 255)) = 0x01 := by decide +kernel

theorem gfMul_gfInv {a : Byte} (ha : a ≠ 0) : gfMul a (gfInv a) = 0x01 := by
  obtain ⟨hlt, hexp⟩ := gfLog_spec ha
  simpa only [gfInv, hexp] using gfMul_gfExp_opposite (gfLog a) hlt

/-! ### The commands -/

/-- A command whose one check is that of a zero operand completes with its result when the operand is not 0. -/
theorem conclude_checkGfZero {a : Byte} (ha : a ≠ 0) (op : Byte) (s t : State) :
    conclude op s (checked (checkGfZero a) (.ok t)) = .next (t.complete op 0x00) := by
  rw [checkGfZero_eq_none.2 ha, checked_none, conclude_ok]

/-- Settles O34: NOP, CLEAR, GF_MUL and GF_EXP check nothing; GF_LOG and GF_INV pass their one check, and their results
are those of `gfLog_spec` and `gfMul_gfInv`. -/
theorem controlAndGfCommandsComplete : Obligations.ControlAndGfCommandsComplete := by
  refine fun s => ⟨rfl, rfl, fun _ _ => rfl, fun _ => rfl, fun a ha => ?_, fun a ha => ?_⟩
  · obtain ⟨hlt, hexp⟩ := gfLog_spec ha
    exact ⟨gfLog a, hlt, hexp, conclude_checkGfZero ha 0x0A s _⟩
  · exact ⟨gfInv a, gfMul_gfInv ha, conclude_checkGfZero ha 0x0B s _⟩

end Sys2Proof.Machine
end

section
/-! PROOFS. GF(256) as the quotient of GF(2)[x] by the polynomial 0x11D (R150): the machine's product is the product of
that ring, and the laws of the field follow from the ring's. -/

namespace Sys2Proof.Machine

open Sys2Proof Sys2Proof.Safety
open Polynomial

/-! ### Bit masks as polynomials over GF(2) -/

/-- The polynomial over GF(2) whose coefficients are the bits of a number (R13). -/
noncomputable def bitPoly (n : Nat) : (ZMod 2)[X] := ∑ i ∈ Finset.range n, if n.testBit i then X ^ i else 0

@[simp] theorem coeff_bitPoly (n i : Nat) : (bitPoly n).coeff i = if n.testBit i then 1 else 0 := by
  have hterm : ∀ j, (if n.testBit j then (X : (ZMod 2)[X]) ^ j else 0).coeff i =
      if i = j ∧ n.testBit j then 1 else 0 := by
    intro j
    split <;> simp_all [coeff_X_pow]
  have hi : n.testBit i = true → i < n := fun h => Nat.lt_two_pow_self.trans_le (Nat.ge_two_pow_of_testBit h)
  simp only [bitPoly, finsetSum_coeff, hterm, ite_and, Finset.sum_ite_eq, Finset.mem_range]
  by_cases h : n.testBit i = true
  · simp [h, hi h]
  · simp [h]

@[simp] theorem bitPoly_zero : bitPoly 0 = 0 := by simp [bitPoly]

@[simp] theorem bitPoly_one : bitPoly 1 = 1 := by simp [bitPoly]

theorem bitPoly_injective {m n : Nat} (h : bitPoly m = bitPoly n) : m = n := by
  refine Nat.eq_of_testBit_eq fun i => ?_
  have hi : (bitPoly m).coeff i = (bitPoly n).coeff i := by rw [h]
  rw [coeff_bitPoly, coeff_bitPoly] at hi
  revert hi
  cases m.testBit i <;> cases n.testBit i <;> simp

/-- Addition in GF(2)[x] is XOR. -/
theorem bitPoly_xor (m n : Nat) : bitPoly (m ^^^ n) = bitPoly m + bitPoly n := by
  ext i
  rw [coeff_add, coeff_bitPoly, coeff_bitPoly, coeff_bitPoly, Nat.testBit_xor]
  cases m.testBit i <;> cases n.testBit i <;> decide

theorem bitPoly_shiftLeft (n k : Nat) : bitPoly (n <<< k) = bitPoly n * X ^ k := by
  ext i
  rw [coeff_mul_X_pow', coeff_bitPoly, coeff_bitPoly, Nat.testBit_shiftLeft]
  by_cases h : k ≤ i <;> simp [h]

@[simp] theorem bitPoly_two_pow (k : Nat) : bitPoly (2 ^ k) = X ^ k := by
  rw [← Nat.one_shiftLeft, bitPoly_shiftLeft, bitPoly_one, one_mul]


theorem degree_bitPoly_lt {n k : Nat} (h : n < 2 ^ k) : (bitPoly n).degree < k := by
  refine (degree_lt_iff_coeff_zero _ _).2 fun i hi => ?_
  rw [coeff_bitPoly, Nat.testBit_lt_two_pow (h.trans_le (Nat.pow_le_pow_right (by decide) hi))]
  rfl

/-- A bit mask counted or not, as its product with one bit. -/
theorem bitPoly_ite (c : Bool) (n : Nat) : bitPoly (if c then n else 0) = bitPoly n * bitPoly c.toNat := by
  cases c <;> simp

theorem mod_two_pow_succ_eq_xor (b n : Nat) :
    b % 2 ^ (n + 1) = b % 2 ^ n ^^^ if b.testBit n then 2 ^ n else 0 := by
  refine Nat.eq_of_testBit_eq fun i => ?_
  rw [Nat.testBit_xor, Nat.testBit_mod_two_pow, Nat.testBit_mod_two_pow]
  rcases Nat.lt_trichotomy i n with h | rfl | h
  · have hne : n ≠ i := h.ne'
    split <;> simp [h, Nat.lt_succ_of_lt h, hne]
  · cases hb : b.testBit i <;> simp
  · have hne : n ≠ i := h.ne
    split <;> simp [h.not_gt, hne, show ¬ i < n + 1 by omega]

theorem bitPoly_mod_two_pow_succ (b n : Nat) :
    bitPoly (b % 2 ^ (n + 1)) = bitPoly (b % 2 ^ n) + X ^ n * bitPoly (b.testBit n).toNat := by
  rw [mod_two_pow_succ_eq_xor, bitPoly_xor, bitPoly_ite, bitPoly_two_pow]

/-- The carry-less product of bit masks is the product over GF(2). -/
theorem bitPoly_binaryProduct (n a b : Nat) :
    bitPoly (binaryProduct n a b) = bitPoly a * bitPoly (b % 2 ^ n) := by
  induction n with
  | zero => simp [binaryProduct, Nat.mod_one]
  | succ n ih =>
    rw [binaryProduct, List.range_succ, List.foldl_append, ← binaryProduct, List.foldl_cons, List.foldl_nil,
      bitPoly_mod_two_pow_succ, mul_add, ← ih]
    cases b.testBit n
    · simp
    · simp [bitPoly_xor, bitPoly_shiftLeft]

/-! ### The product of R150 -/

/-- The modulus of R150, x⁸ + x⁴ + x³ + x² + 1. -/
noncomputable def gfModulus : (ZMod 2)[X] := bitPoly 0x11D

/-- Multiplying a byte by x and reducing gives a byte. -/
theorem double_reduced_lt : ∀ r : BitVec 9, r.toNat < 256 →
    (r.toNat <<< 1 ^^^ if r.getLsbD 7 then 0x11D else 0) < 256 := by decide +kernel

theorem toNat_gfMulStep (a b : Byte) {r : BitVec 9} (hr : r.toNat < 256) (i : Nat) :
    (gfMulStep a b r i).toNat =
      (r.toNat <<< 1 ^^^ if r.getLsbD 7 then 0x11D else 0) ^^^ if b.getLsbD i then a.toNat else 0 := by
  have hshift : (r <<< 1).toNat = r.toNat <<< 1 := by
    rw [BitVec.toNat_shiftLeft, Nat.shiftLeft_eq]; omega
  have ha : (a.setWidth 9).toNat = a.toNat := by
    rw [BitVec.toNat_setWidth]; omega
  unfold gfMulStep
  split <;> split <;> simp [hshift, ha]

theorem toNat_gfMulStep_lt (a b : Byte) {r : BitVec 9} (hr : r.toNat < 256) (i : Nat) :
    (gfMulStep a b r i).toNat < 256 := by
  have ha : (if b.getLsbD i then a.toNat else 0) < 256 := by split <;> omega
  rw [toNat_gfMulStep a b hr]
  exact Nat.xor_lt_two_pow (n := 8) (double_reduced_lt r hr) ha

/-- One step of the loop, in GF(2)[x]: multiply by x, reduce, and add `a` if the bit of `b` is 1. -/
theorem bitPoly_gfMulStep (a b : Byte) {r : BitVec 9} (hr : r.toNat < 256) (i : Nat) :
    bitPoly (gfMulStep a b r i).toNat = bitPoly r.toNat * X + gfModulus * bitPoly (r.getLsbD 7).toNat +
      bitPoly a.toNat * bitPoly (b.getLsbD i).toNat := by
  rw [toNat_gfMulStep a b hr, bitPoly_xor, bitPoly_xor, bitPoly_shiftLeft, pow_one, bitPoly_ite, bitPoly_ite, gfModulus]

/-- The loop over the bits of `b` from n − 1 down to 0 leaves a remainder modulo 0x11D. -/
theorem gfMulLoop_spec (a b : Byte) (n : Nat) {r : BitVec 9} (hr : r.toNat < 256) :
    ((List.range n).reverse.foldl (gfMulStep a b) r).toNat < 256 ∧ ∃ q < 2 ^ n,
      bitPoly r.toNat * X ^ n + bitPoly a.toNat * bitPoly (b.toNat % 2 ^ n) =
        gfModulus * bitPoly q + bitPoly ((List.range n).reverse.foldl (gfMulStep a b) r).toNat := by
  induction n generalizing r with
  | zero => exact ⟨hr, 0, by simp, by simp [Nat.mod_one]⟩
  | succ n ih =>
    obtain ⟨hlt, q, hq, h⟩ := ih (toNat_gfMulStep_lt a b hr n)
    rw [List.range_succ, List.reverse_concat, List.foldl_cons]
    refine ⟨hlt, q ^^^ (if r.getLsbD 7 then 2 ^ n else 0), Nat.xor_lt_two_pow (by omega) ?_, ?_⟩
    · split <;> omega
    · rw [bitPoly_gfMulStep a b hr] at h
      rw [bitPoly_xor, bitPoly_ite, bitPoly_two_pow, bitPoly_mod_two_pow_succ, BitVec.testBit_toNat]
      linear_combination h - gfModulus * X ^ n * bitPoly (r.getLsbD 7).toNat * CharTwo.two_eq_zero (R := (ZMod 2)[X])

/-- R150: `a ⊗ b` is the remainder of the product over GF(2) modulo 0x11D. -/
theorem bitPoly_gfMul (a b : Byte) : ∃ q < 128,
    bitPoly a.toNat * bitPoly b.toNat = gfModulus * bitPoly q + bitPoly (gfMul a b).toNat := by
  have hfirst : (gfMulStep a b 0#9 7).toNat < 256 := toNat_gfMulStep_lt a b (by decide) 7
  obtain ⟨hlt, q, hq, h⟩ := gfMulLoop_spec a b 7 hfirst
  have hres : (gfMul a b).toNat = ((List.range 7).reverse.foldl (gfMulStep a b) (gfMulStep a b 0#9 7)).toNat :=
    (BitVec.toNat_setWidth ..).trans (Nat.mod_eq_of_lt hlt)
  have hstart : bitPoly (gfMulStep a b 0#9 7).toNat = bitPoly a.toNat * bitPoly (b.getLsbD 7).toNat := by
    rw [bitPoly_gfMulStep a b (by decide)]; simp
  have hb : bitPoly b.toNat = bitPoly (b.toNat % 2 ^ 7) + X ^ 7 * bitPoly (b.getLsbD 7).toNat := by
    rw [← BitVec.testBit_toNat, ← bitPoly_mod_two_pow_succ, Nat.mod_eq_of_lt b.isLt]
  refine ⟨q, hq, ?_⟩
  rw [hres, ← h, hstart, hb]
  ring

/-! ### The ring that bytes stand in -/

/-- GF(2)[x] modulo 0x11D (R150). -/
abbrev GfRing : Type := AdjoinRoot gfModulus

/-- The element of the ring that a byte stands for. -/
noncomputable def gfElem (a : Byte) : GfRing := AdjoinRoot.mk gfModulus (bitPoly a.toNat)

theorem gfRing_two_eq_zero : (2 : GfRing) = 0 := by
  have h := congrArg (AdjoinRoot.mk gfModulus) (CharTwo.two_eq_zero (R := (ZMod 2)[X]))
  rwa [map_ofNat, map_zero] at h

@[simp] theorem gfElem_zero : gfElem 0#8 = 0 := by simp [gfElem]

@[simp] theorem gfElem_one : gfElem 1#8 = 1 := by simp [gfElem]

@[simp] theorem gfElem_xor (a b : Byte) : gfElem (a ^^^ b) = gfElem a + gfElem b := by
  simp [gfElem, bitPoly_xor]

@[simp] theorem gfElem_gfMul (a b : Byte) : gfElem (gfMul a b) = gfElem a * gfElem b := by
  obtain ⟨q, -, h⟩ := bitPoly_gfMul a b
  rw [gfElem, gfElem, gfElem, ← map_mul, h, map_add, map_mul, AdjoinRoot.mk_self, zero_mul, zero_add]

/-- Bytes are the remainders modulo 0x11D, one for each element. -/
theorem gfElem_injective {a b : Byte} (h : gfElem a = gfElem b) : a = b := by
  have hdvd : gfModulus ∣ bitPoly a.toNat - bitPoly b.toNat := AdjoinRoot.mk_eq_mk.1 h
  have hdeg : (bitPoly a.toNat - bitPoly b.toNat).degree < gfModulus.degree :=
    calc (bitPoly a.toNat - bitPoly b.toNat).degree
      _ < (8 : Nat) :=
          (degree_sub_le _ _).trans_lt (max_lt (degree_bitPoly_lt a.isLt) (degree_bitPoly_lt b.isLt))
      _ ≤ gfModulus.degree := le_degree_of_ne_zero (by rw [gfModulus, coeff_bitPoly]; decide)
  exact BitVec.eq_of_toNat_eq (bitPoly_injective (sub_eq_zero.1 (eq_zero_of_dvd_of_degree_lt hdvd hdeg)))

theorem gfElem_eq_zero_iff {a : Byte} : gfElem a = 0 ↔ a = 0x00 :=
  ⟨fun h => gfElem_injective (h.trans gfElem_zero.symm), fun h => h ▸ gfElem_zero⟩

/-! ### The powers of α -/

@[simp] theorem gfElem_gfExp (k : Nat) : gfElem (gfExp k) = gfElem gfAlpha ^ k := by
  induction k with
  | zero => exact gfElem_one
  | succ k ih => rw [gfExp, gfElem_gfMul, ih, pow_succ]

/-- α^255 = 1 (R150). -/
theorem gfExp_255 : gfExp 255 = 0x01 := by decide +kernel

theorem gfElem_gfAlpha_pow_255 : gfElem gfAlpha ^ 255 = 1 := by
  rw [← gfElem_gfExp, gfExp_255]; exact gfElem_one

/-- Exponents of α count modulo 255 (R150). -/
@[simp] theorem alphaPow_eq_gfExp (k : Nat) : alphaPow k = gfExp k := by
  refine gfElem_injective ?_
  rw [alphaPow, gfElem_gfExp, gfElem_gfExp, ← pow_eq_pow_mod k gfElem_gfAlpha_pow_255]

theorem gfExp_ne_zero {k : Nat} (hk : k < 255) : gfExp k ≠ 0 := by
  intro h
  have hone := gfMul_gfExp_opposite k hk
  rw [h] at hone
  exact absurd ((gfMul_zero_left _).symm.trans hone) (by decide)

/-- The first 255 powers of α are distinct: they are the 255 bytes but 0 (R150). -/
theorem gfExp_injOn : Set.InjOn gfExp (Finset.range 255) := by
  refine Finset.injOn_of_surjOn_of_card_le (t := Finset.univ.erase 0) gfExp ?_ ?_ ?_
  · exact fun k hk => by simpa using gfExp_ne_zero (by simpa using hk)
  · exact fun a ha => by simpa using exists_gfExp (by simpa using ha)
  · decide +kernel

/-- Settles O35: the product is `bitPoly_gfMul`, so that bytes stand in a commutative ring (`gfElem`), whose laws are
the laws of ⊗; LOG finds every byte but 0 among the distinct powers of α. -/
theorem gfFieldLaws : Obligations.GfFieldLaws := by
  refine ⟨fun a b => ?_, fun a ha => ?_, fun k => gfExp_ne_zero, rfl, gfExp_255, fun k => rfl, fun a b => ?_,
    fun a => ?_, fun a => ?_, fun a b ha hb => ?_, fun a b c => ?_⟩
  · obtain ⟨q, hq, h⟩ := bitPoly_gfMul a b
    refine ⟨q, hq, bitPoly_injective ?_⟩
    rw [bitPoly_xor, bitPoly_binaryProduct, bitPoly_binaryProduct, Nat.mod_eq_of_lt b.isLt, Nat.mod_eq_of_lt (b := 2 ^ 7) hq, h,
      gfModulus]
  · obtain ⟨hlt, hexp⟩ := gfLog_spec ha
    exact ⟨gfLog a, hlt, hexp, rfl, fun j hj hja =>
      gfExp_injOn (by simpa using hj) (by simpa using hlt) (hja.trans hexp.symm)⟩
  · exact gfElem_injective (by simp [mul_comm])
  · exact gfElem_injective (by simp)
  · exact gfElem_injective (by simp)
  · refine gfElem_injective ?_
    rw [← alphaPow, alphaPow_eq_gfExp, gfElem_gfMul, gfElem_gfExp, pow_add, ← gfElem_gfExp, ← gfElem_gfExp,
      (gfLog_spec ha).2, (gfLog_spec hb).2]
  · exact gfElem_injective (by simp [mul_add])

end Sys2Proof.Machine
end

section
/-! PROOFS. Byte sequences as polynomials over GF(256), highest-degree coefficient first (R13): evaluation, products and
remainders of the machine are those of the polynomial ring. -/

namespace Sys2Proof.Machine

open Sys2Proof Sys2Proof.Safety
open Polynomial

/-- The polynomial whose coefficients are the bytes of a sequence, the first the highest degree's (R13). -/
noncomputable def bytePoly : List Byte → GfRing[X]
  | [] => 0
  | b :: bs => C (gfElem b) * X ^ bs.length + bytePoly bs

@[simp] theorem bytePoly_nil : bytePoly [] = 0 := rfl

@[simp] theorem bytePoly_cons (b : Byte) (bs : List Byte) :
    bytePoly (b :: bs) = C (gfElem b) * X ^ bs.length + bytePoly bs := rfl

@[simp] theorem bytePoly_append (p q : List Byte) : bytePoly (p ++ q) = bytePoly p * X ^ q.length + bytePoly q := by
  induction p with
  | nil => simp
  | cons a p ih =>
    rw [List.cons_append, bytePoly_cons, ih, bytePoly_cons, List.length_append]
    ring

/-- Leading zeros count for nothing. -/
theorem bytePoly_zero_cons (p : List Byte) : bytePoly (0 :: p) = bytePoly p := by simp

theorem bytePoly_one_cons (p : List Byte) : bytePoly (0x01 :: p) = X ^ p.length + bytePoly p := by simp

/-- Shifting multiplies by x. -/
theorem bytePoly_append_zero (p : List Byte) : bytePoly (p ++ [0]) = bytePoly p * X := by simp

/-- The factor x − e, which is x + e. -/
theorem bytePoly_factor (e : Byte) : bytePoly [0x01, e] = X + C (gfElem e) := by simp

theorem coeff_bytePoly_of_length_le {bs : List Byte} {i : Nat} (h : bs.length ≤ i) : (bytePoly bs).coeff i = 0 := by
  induction bs with
  | nil => simp
  | cons b bs ih =>
    rw [List.length_cons] at h
    simp [coeff_X_pow, ih (by omega), show i ≠ bs.length by omega]

/-- Sequences of one length with one polynomial are equal. -/
theorem bytePoly_injective {p q : List Byte} (hl : p.length = q.length) (h : bytePoly p = bytePoly q) : p = q := by
  induction p generalizing q with
  | nil => exact (List.length_eq_zero_iff.1 hl.symm).symm
  | cons a p ih =>
    obtain ⟨b, q, rfl⟩ := List.exists_cons_of_length_eq_add_one hl.symm
    have hpq : p.length = q.length := Nat.succ.inj hl
    have hlead : (bytePoly (a :: p)).coeff q.length = (bytePoly (b :: q)).coeff q.length := by rw [h]
    obtain rfl : a = b := gfElem_injective (by
      simpa [hpq, coeff_bytePoly_of_length_le hpq.le, coeff_bytePoly_of_length_le le_rfl] using hlead)
    rw [bytePoly_cons, bytePoly_cons, hpq] at h
    rw [ih hpq (add_left_cancel h)]

theorem gfRingPoly_two_eq_zero : (2 : GfRing[X]) = 0 := by
  rw [← C_ofNat, gfRing_two_eq_zero, C_0]

/-! ### Values (R157) -/

theorem gfElem_xorSum (n : Nat) (f : Nat → Byte) : gfElem (xorSum n f) = ∑ i ∈ Finset.range n, gfElem (f i) := by
  induction n with
  | zero => exact gfElem_zero
  | succ n ih =>
    rw [xorSum, List.range_succ, List.foldl_append, ← xorSum, List.foldl_cons, List.foldl_nil, gfElem_xor, ih,
      Finset.sum_range_succ]

/-- A sequence computed by its index is the sum of its terms. -/
theorem bytePoly_map_range (n : Nat) (f : Nat → Byte) :
    bytePoly ((List.range n).map f) = ∑ k ∈ Finset.range n, C (gfElem (f k)) * X ^ (n - 1 - k) := by
  induction n generalizing f with
  | zero => simp
  | succ n ih =>
    rw [List.range_succ_eq_map, List.map_cons, List.map_map, bytePoly_cons, ih, Finset.sum_range_succ', add_comm]
    simp only [Function.comp_apply, List.length_map, List.length_range, Nat.add_sub_cancel, Nat.sub_zero, Nat.sub_sub,
      Nat.add_comm 1]

theorem map_getD_range (c : List Byte) : (List.range c.length).map (c.getD · 0) = c :=
  List.ext_getElem (by simp) fun i _ hi => by simp [List.getD_eq_getElem?_getD, hi]

/-- C(α^k), as R157 writes it, is the value of the polynomial. -/
theorem gfElem_valueAt (c : List Byte) (k : Nat) : gfElem (valueAt c k) = (bytePoly c).eval (gfElem gfAlpha ^ k) := by
  conv_rhs => rw [← map_getD_range c]
  rw [valueAt, gfElem_xorSum, bytePoly_map_range, eval_finsetSum]
  exact Finset.sum_congr rfl fun t _ => by simp [pow_mul]

/-- Horner's rule gives the value of the polynomial (R157). -/
theorem gfElem_hornerEval (c : List Byte) (x : Byte) : gfElem (hornerEval c x) = (bytePoly c).eval (gfElem x) := by
  induction c using List.reverseRecOn with
  | nil => simp [hornerEval]
  | append_singleton c b ih =>
    rw [hornerEval, List.foldl_append, ← hornerEval, List.foldl_cons, List.foldl_nil]
    simp [ih]

/-- Horner's rule at α^j gives R157's S_j. -/
theorem hornerEval_gfExp (c : List Byte) (j : Nat) : hornerEval c (gfExp j) = valueAt c j :=
  gfElem_injective (by rw [gfElem_hornerEval, gfElem_gfExp, gfElem_valueAt])

/-! ### Products -/

@[simp] theorem length_polyProduct (p q : List Byte) : (polyProduct p q).length = p.length + q.length - 1 := by
  simp [polyProduct]

/-- Multiplying by one term scales every coefficient and shifts them all. -/
theorem bytePoly_mul_term (a : Byte) (q : List Byte) (n : Nat) :
    C (gfElem a) * X ^ n * bytePoly q =
      ∑ k ∈ Finset.range (q.length + n), C (gfElem a * gfElem (q.getD k 0)) * X ^ (q.length + n - 1 - k) := by
  have hlow : ∀ k, gfElem (q.getD (q.length + k) 0) = 0 := fun k => by
    rw [List.getD_eq_default _ _ (by omega)]; exact gfElem_zero
  conv_lhs => rw [← map_getD_range q]
  rw [Finset.sum_range_add, bytePoly_map_range, Finset.mul_sum]
  simp only [hlow, mul_zero, C_0, zero_mul, Finset.sum_const_zero, add_zero]
  refine Finset.sum_congr rfl fun k hk => ?_
  have hk : k < q.length := Finset.mem_range.1 hk
  rw [show q.length + n - 1 - k = q.length - 1 - k + n by omega, C_mul]
  ring

/-- A leading coefficient 0 can be dropped. -/
theorem sum_terms_eq_of_zero {f : Nat → GfRing} (hf : f 0 = 0) (n : Nat) :
    ∑ k ∈ Finset.range n, C (f k) * X ^ (n - 1 - k) =
      ∑ k ∈ Finset.range (n - 1), C (f (k + 1)) * X ^ (n - 1 - 1 - k) := by
  cases n with
  | zero => simp
  | succ n =>
    rw [Finset.sum_range_succ', hf, C_0, zero_mul, add_zero]
    exact Finset.sum_congr rfl fun k _ => by rw [show n + 1 - 1 - (k + 1) = n + 1 - 1 - 1 - k by omega]

/-- `polyProduct` is the product of polynomials. -/
@[simp] theorem bytePoly_polyProduct (p q : List Byte) : bytePoly (polyProduct p q) = bytePoly p * bytePoly q := by
  have hsum : ∀ p, bytePoly (polyProduct p q) = ∑ k ∈ Finset.range (p.length + q.length - 1),
      C (∑ i ∈ Finset.range (k + 1), gfElem (p.getD i 0) * gfElem (q.getD (k - i) 0)) *
        X ^ (p.length + q.length - 1 - 1 - k) := fun p => by
    simp only [polyProduct, bytePoly_map_range, gfElem_xorSum, gfElem_gfMul]
  induction p with
  | nil => simp [hsum]
  | cons a p ih =>
    have hcoeff : ∀ k, ∑ i ∈ Finset.range (k + 1), gfElem ((a :: p).getD i 0) * gfElem (q.getD (k - i) 0) =
        gfElem a * gfElem (q.getD k 0) +
          ∑ i ∈ Finset.range k, gfElem (p.getD i 0) * gfElem (q.getD (k - (i + 1)) 0) := fun k => by
      rw [Finset.sum_range_succ', add_comm, List.getD_cons_zero, Nat.sub_zero]
      simp only [List.getD_cons_succ]
    have hn : (a :: p).length + q.length - 1 = q.length + p.length := by rw [List.length_cons]; omega
    rw [bytePoly_cons, add_mul, bytePoly_mul_term, ← ih, hsum, hsum, hn]
    simp only [hcoeff, C_add, add_mul, Finset.sum_add_distrib]
    rw [sum_terms_eq_of_zero (f := fun k => ∑ i ∈ Finset.range k, _) (Finset.sum_range_zero _), Nat.add_comm q.length]
    simp only [Nat.add_sub_add_right]

/-! ### Sums -/

/-- Adding a multiple of a polynomial, coefficient by coefficient. -/
theorem bytePoly_zipWith_mul (f : Byte) {p q : List Byte} (hl : p.length = q.length) :
    bytePoly (List.zipWith (fun a b => a ^^^ gfMul b f) p q) = bytePoly p + C (gfElem f) * bytePoly q := by
  induction p generalizing q with
  | nil => simp [List.length_eq_zero_iff.1 hl.symm]
  | cons a p ih =>
    obtain ⟨b, q, rfl⟩ := List.exists_cons_of_length_eq_add_one hl.symm
    have hpq : p.length = q.length := Nat.succ.inj hl
    rw [List.zipWith_cons_cons, bytePoly_cons, ih hpq, bytePoly_cons, bytePoly_cons, gfElem_xor, gfElem_gfMul, C_add,
      C_mul, List.length_zipWith, hpq, min_self]
    ring

@[simp] theorem bytePoly_replicate_zero (n : Nat) : bytePoly (List.replicate n 0) = 0 := by
  induction n with
  | zero => rfl
  | succ n ih => rw [List.replicate_succ, bytePoly_zero_cons, ih]

end Sys2Proof.Machine
end

section
/-! PROOFS. RS_GEN, RS_DIV and RS_SYND (R154, R156, R157): the generator as a product of its factors, division with
remainder by it, and the values of codewords at its roots. -/

namespace Sys2Proof.Machine

open Sys2Proof Sys2Proof.Safety
open Polynomial

/-! ### The generator (R154) -/

/-- R154's inner loop multiplies by (x − e). -/
theorem reverse_mulRoot (g : List Byte) (e : Byte) : (mulRoot g e).reverse = polyProduct g.reverse [0x01, e] := by
  refine bytePoly_injective (by simp) ?_
  have hlen : ((0 : Byte) :: g).length = (g ++ [0]).length := by simp
  rw [mulRoot, List.reverse_zipWith hlen, bytePoly_zipWith_mul e (by simp), bytePoly_polyProduct,
    List.reverse_cons, List.reverse_concat, bytePoly_append_zero, bytePoly_zero_cons, bytePoly_factor]
  ring

/-- R154's loop builds the product of the (x − α^j), j < n. -/
theorem reverse_genPoly (n : Nat) :
    (genPoly n).reverse = (List.range n).foldl (fun p j => polyProduct p [0x01, alphaPow j]) [0x01] := by
  induction n with
  | zero => rfl
  | succ n ih =>
    rw [genPoly, reverse_mulRoot, ih, List.range_succ, List.foldl_append, List.foldl_cons, List.foldl_nil,
      alphaPow_eq_gfExp]

/-- The generator's roots are α^0 to α^(n − 1). -/
theorem valueAt_reverse_genPoly {n j : Nat} (hj : j < n) : valueAt (genPoly n).reverse j = 0x00 := by
  rw [← gfElem_eq_zero_iff, gfElem_valueAt]
  induction n with
  | zero => omega
  | succ n ih =>
    rw [genPoly, reverse_mulRoot, bytePoly_polyProduct, eval_mul]
    rcases Nat.lt_succ_iff_lt_or_eq.1 hj with hj | rfl
    · rw [ih hj, zero_mul]
    · have hroot : (bytePoly [0x01, gfExp j]).eval (gfElem gfAlpha ^ j) = 0 := by
        rw [bytePoly_factor, eval_add, eval_X, eval_C, gfElem_gfExp, ← two_mul, gfRing_two_eq_zero, zero_mul]
      rw [hroot, mul_zero]

/-- The GEN registers read from GEN[n] down to GEN[0] are the coefficients in reverse (R40). -/
theorem generatorOf_eq_reverse {r : Results} {g : List Byte} (hl : g.length = r.genDeg.toNat + 1)
    (h : ∀ i < g.length, r.gen.toList.getD i 0 = g.getD i 0) : generatorOf r = g.reverse := by
  refine List.ext_getElem (by simp [generatorOf, hl]) fun t ht ht' => ?_
  have ht : t < g.length := by simpa using ht'
  have hi : r.genDeg.toNat - t = g.length - 1 - t := by omega
  simp only [generatorOf, List.getElem_map, List.getElem_range, List.getElem_reverse, hi]
  rw [h _ (by omega), List.getD_eq_getElem _ _ (by omega)]

theorem toNat_genDeg_setGen (r : Results) {n : Nat} (hn : n ≤ 30) : (r.setGen n).genDeg.toNat = n := by
  rw [Results.setGen_genDeg, BitVec.toNat_ofNat, Nat.mod_eq_of_lt (by omega)]

theorem genDeg_setGen_ne_zero (r : Results) {n : Nat} (h1 : 1 ≤ n) (hn : n ≤ 30) : (r.setGen n).genDeg ≠ 0 := by
  intro h
  have hdeg := toNat_genDeg_setGen r hn
  have h0 : (0 : BitVec 6).toNat = 0 := rfl
  rw [h, h0] at hdeg
  omega

theorem generatorOf_setGen (r : Results) {n : Nat} (hn : n ≤ 30) : generatorOf (r.setGen n) = (genPoly n).reverse := by
  refine generatorOf_eq_reverse ?_ fun i _ => genRegisters_getD (by rw [length_genPoly]; omega) i
  rw [length_genPoly, toNat_genDeg_setGen r hn]

theorem genDeg_le_of_generatorInv {r : Results} (hr : GeneratorInv r) : r.genDeg.toNat ≤ 30 := by
  obtain ⟨hz, -⟩ | ⟨-, h30, -⟩ := hr
  · simp [hz]
  · exact h30

/-- A held generator is its leading 1 and the divisor's tail (R40, R156). -/
theorem generatorOf_eq_cons {r : Results} (hr : GeneratorInv r) (h0 : r.genDeg ≠ 0) :
    generatorOf r = 0x01 :: divisorTail r.gen r.genDeg.toNat := by
  obtain ⟨hz, -⟩ | ⟨-, h30, hlead, -⟩ := hr
  · exact absurd hz h0
  have hl : (r.gen.toList.take r.genDeg.toNat).length = r.genDeg.toNat := by simp; omega
  rw [generatorOf_eq_reverse (g := r.gen.toList.take r.genDeg.toNat ++ [0x01]) (by simp [hl]) fun i hi => ?_]
  · rw [List.reverse_concat, divisorTail]
  · rcases Nat.lt_or_ge i r.genDeg.toNat with hlt | hge
    · simp [List.getD_eq_getElem?_getD, List.getElem?_append_left (hl.symm ▸ hlt), hlt]
    · obtain rfl : i = r.genDeg.toNat := by rw [List.length_append, hl, List.length_singleton] at hi; omega
      rw [hlead, List.getD_eq_getElem?_getD, List.getElem?_append_right hl.le, hl]
      simp

/-- RS_GEN passes its check and writes GEN and GEN_DEG. -/
theorem exec_rsGen (s : State) {n : Byte} (h1 : 1 ≤ n.toNat) (h30 : n.toNat ≤ 30) :
    exec (.rsGen n) s = .next ((s.setRes (s.res.setGen n.toNat)).complete 0x10 0x00) :=
  exec_of_outcome_ok (i := .rsGen n) (doRsGen_eq_ok.2 ⟨⟨h1, h30⟩, rfl⟩)

/-- Settles O36: the registers RS_GEN writes hold the coefficients of `reverse_genPoly`'s product, whose roots are those
of `valueAt_reverse_genPoly`. -/
theorem rsGenBuildsTheGenerator : Obligations.RsGenBuildsTheGenerator := by
  intro s n h1 h30
  have hcoeff : ∀ i, (s.res.setGen n.toNat).gen.toList.getD i 0 = (genPoly n.toNat).getD i 0 :=
    genRegisters_getD (by rw [length_genPoly]; omega)
  refine ⟨s.res.setGen n.toNat, exec_rsGen s h1 h30, rfl, (generatorOf_setGen s.res h30).trans (reverse_genPoly _),
    ?_, fun i hi => ?_, fun j hj => ?_⟩
  · rw [hcoeff, List.getD_eq_getElem?_getD, genPoly_leading]; rfl
  · rw [hcoeff, List.getD_eq_default _ _ (by rw [length_genPoly]; omega)]
  · rw [generatorOf_setGen s.res h30, valueAt_reverse_genPoly hj]

/-! ### Division (R156) -/

/-- One step of R156's division: shift the remainder, add the data codeword, and add f times the divisor. -/
theorem bytePoly_divStep {tail rem : List Byte} (hl : rem.length = tail.length) (d : Byte) :
    bytePoly (divStep tail rem d) = bytePoly rem * X + C (gfElem d) * X ^ tail.length +
      C (gfElem (d ^^^ rem.headD 0)) * bytePoly (0x01 :: tail) := by
  cases rem with
  | nil =>
    obtain rfl := List.length_eq_zero_iff.1 hl.symm
    simp [divStep, ← two_mul, gfRingPoly_two_eq_zero]
  | cons a rem =>
    rw [divStep, bytePoly_zipWith_mul _ (by simpa using hl), List.tail_cons, bytePoly_append_zero, bytePoly_cons,
      List.headD_cons, bytePoly_one_cons, ← hl, gfElem_xor, C_add, List.length_cons]
    linear_combination -(C (gfElem d) + C (gfElem a)) * X ^ (rem.length + 1) * gfRingPoly_two_eq_zero

/-- R156's division: the quotient's coefficients are the factors f, one for each data codeword. -/
theorem exists_quotient {tail rem : List Byte} (hl : rem.length = tail.length) (data : List Byte) :
    ∃ q, q.length = data.length ∧ bytePoly rem * X ^ data.length + bytePoly data * X ^ tail.length =
      bytePoly q * bytePoly (0x01 :: tail) + bytePoly (data.foldl (divStep tail) rem) := by
  induction data generalizing rem with
  | nil => exact ⟨[], rfl, by simp⟩
  | cons d data ih =>
    obtain ⟨q, hq, h⟩ := ih (length_divStep hl d)
    refine ⟨(d ^^^ rem.headD 0) :: q, by simp [hq], ?_⟩
    rw [bytePoly_divStep hl] at h
    rw [List.foldl_cons, bytePoly_cons, bytePoly_cons (d ^^^ _), List.length_cons, hq]
    linear_combination h - C (gfElem (d ^^^ rem.headD 0)) * bytePoly (0x01 :: tail) * X ^ data.length * gfRingPoly_two_eq_zero

/-- Data followed by its remainder is a multiple of the divisor (R156). -/
theorem append_rsRemainder_eq_polyProduct (tail data : List Byte) :
    ∃ q, q.length = data.length ∧ data ++ rsRemainder tail data = polyProduct q (0x01 :: tail) := by
  obtain ⟨q, hq, h⟩ := exists_quotient (tail := tail) (rem := List.replicate tail.length 0) (by simp) data
  refine ⟨q, hq, bytePoly_injective (by simp [hq]) ?_⟩
  rw [bytePoly_replicate_zero, zero_mul, zero_add, ← rsRemainder] at h
  rw [bytePoly_append, bytePoly_polyProduct, length_rsRemainder, h]
  linear_combination bytePoly (rsRemainder tail data) * gfRingPoly_two_eq_zero

/-! ### What the commands read and store -/

theorem readRange_of_holds {m : Memory} (hw : m.wf) {a n : Nat} {bs : List Byte} (hl : bs.length = n)
    (h : Holds m a bs) : m.readRange a n = some bs := (Memory.readRange_eq_some hw).2 ⟨hl, hl ▸ h⟩

theorem exists_holds_of_written {m : Memory} (hw : m.wf) {a n : Nat} (h : Written m a n) :
    ∃ bs : List Byte, bs.length = n ∧ Holds m a bs := by
  obtain ⟨bs, hbs⟩ := Option.isSome_iff_exists.1 ((Memory.readRange_isSome hw).2 h)
  obtain ⟨rfl, hread⟩ := (Memory.readRange_eq_some hw).1 hbs
  exact ⟨bs, rfl, hread⟩

theorem holds_writeRange (m : Memory) (a : Nat) (bs : List Byte) : Holds (m.writeRange a bs) a bs := by
  intro i hi
  rw [Memory.read_writeRange, if_pos ⟨by omega, by omega⟩, Nat.add_sub_cancel_left]

/-- A range below the one stored holds what it held. -/
theorem holds_writeRange_of_le {m : Memory} {a a' : Nat} {bs bs' : List Byte} (h : a' + bs'.length ≤ a)
    (hm : Holds m a' bs') : Holds (m.writeRange a bs) a' bs' := by
  intro i hi
  rw [Memory.read_writeRange, if_neg (by omega), hm i hi]

/-- RS_DIV passes its checks and stores the remainder of its data. -/
theorem exec_rsDiv {s : State} {o : Latch} {data : List Byte} (hw : s.mem.wf) (hl : s.latch = some o)
    (h0 : s.res.genDeg ≠ 0)
    (hr : o.a0.toNat + o.a1.toNat ≤ 4096 ∧ o.a2.toNat + s.res.genDeg.toNat ≤ 4096 ∧
      o.a1.toNat + s.res.genDeg.toNat ≤ 255)
    (hd : data.length = o.a1.toNat) (hdata : Holds s.mem (0x1000 + o.a0.toNat) data) :
    exec .rsDiv s = .next ((s.commit s.res (s.mem.writeRange (0x2000 + o.a2.toNat)
      (rsRemainder (divisorTail s.res.gen s.res.genDeg.toNat) data))).complete 0x11 0x00) := by
  refine exec_of_outcome_ok (i := .rsDiv) ?_
  rw [outcome, operands_of_latch hl]
  exact doRsDiv_eq_ok.2 ⟨⟨h0, hr⟩, data, readRange_of_holds hw hd hdata, rfl⟩

/-- Settles O37: the ECC bytes stored are the remainder, and `append_rsRemainder_eq_polyProduct` is the division by the
generator held. -/
theorem rsDivLeavesTheRemainder : Obligations.RsDivLeavesTheRemainder := by
  intro s o data hw hg hl h0 hr1 hr2 hr3 hd hdata
  have hgen := generatorOf_eq_cons hg h0
  have hlen : (rsRemainder (divisorTail s.res.gen s.res.genDeg.toNat) data).length = s.res.genDeg.toNat := by
    rw [length_rsRemainder, length_divisorTail, Nat.min_eq_left ((genDeg_le_of_generatorInv hg).trans (by decide))]
  obtain ⟨q, hq, hprod⟩ := append_rsRemainder_eq_polyProduct (divisorTail s.res.gen s.res.genDeg.toNat) data
  exact ⟨_, _, q, exec_rsDiv hw hl h0 ⟨hr1, hr2, hr3⟩ hd hdata, hlen, holds_writeRange s.mem _ _, hq, hgen ▸ hprod,
    sameOutside_writeRange s.mem _ hlen.le⟩

/-! ### Syndromes (R157) -/

theorem syndromesZero_eq_decide (n : Nat) (c : List Byte) :
    syndromesZero n c = decide (∀ j < n, valueAt c j = 0x00) := by
  rw [Bool.eq_iff_iff]
  simp [syndromesZero, hornerEval_gfExp]

theorem syndromes_getElem (n : Nat) (c : List Byte) (j : Fin 30) :
    (syndromes n c)[j] = if j.val < n then valueAt c j else 0x00 := by
  simp [syndromes, hornerEval_gfExp]

/-- RS_SYND passes its checks and writes the values of the data followed by the ECC bytes. -/
theorem exec_rsSynd {s : State} {o : Latch} {n : Byte} {data ecc : List Byte} (hw : s.mem.wf) (hl : s.latch = some o)
    (hn : 1 ≤ n.toNat ∧ n.toNat ≤ 30)
    (hr : o.a0.toNat + o.a1.toNat ≤ 4096 ∧ o.a2.toNat + n.toNat ≤ 4096 ∧ o.a1.toNat + n.toNat ≤ 255)
    (hd : data.length = o.a1.toNat) (hdata : Holds s.mem (0x1000 + o.a0.toNat) data)
    (he : ecc.length = n.toNat) (hecc : Holds s.mem (0x2000 + o.a2.toNat) ecc) :
    exec (.rsSynd n) s = .next ((s.setRes (s.res.setSynd n.toNat (data ++ ecc))).complete 0x12 0x00) := by
  refine exec_of_outcome_ok (i := .rsSynd n) ?_
  rw [outcome, operands_of_latch hl]
  exact doRsSynd_eq_ok.2 ⟨⟨hn, hr⟩, data, readRange_of_holds hw hd hdata, ecc, readRange_of_holds hw he hecc, rfl⟩

/-- Settles O38: Horner's rule computes the values of the codeword. -/
theorem rsSyndComputesTheValues : Obligations.RsSyndComputesTheValues := by
  intro s o n data ecc hw hl h1 h30 hr1 hr2 hr3 hd hdata he hecc
  refine ⟨syndromes n.toNat (data ++ ecc), ?_, syndromes_getElem n.toNat (data ++ ecc)⟩
  rw [exec_rsSynd hw hl ⟨h1, h30⟩ ⟨hr1, hr2, hr3⟩ hd hdata he hecc, ← syndromesZero_eq_decide]
  rfl

/-! ### One after the other (R116) -/

/-- The value of a product is the product of the values. -/
theorem valueAt_polyProduct (p q : List Byte) (j : Nat) :
    valueAt (polyProduct p q) j = gfMul (valueAt p j) (valueAt q j) :=
  gfElem_injective (by simp [gfElem_valueAt])

/-- Data followed by its remainder is 0 at the roots of the generator, of which it is a multiple. -/
theorem valueAt_append_rsRemainder (r : Results) {n j : Nat} (h1 : 1 ≤ n) (h30 : n ≤ 30) (hj : j < n)
    (data : List Byte) : valueAt (data ++ rsRemainder (divisorTail (r.setGen n).gen n) data) j = 0x00 := by
  have hgen := generatorOf_eq_cons (generatorInv_setGen r h1 h30) (genDeg_setGen_ne_zero r h1 h30)
  rw [generatorOf_setGen r h30, toNat_genDeg_setGen r h30] at hgen
  obtain ⟨q, -, hprod⟩ := append_rsRemainder_eq_polyProduct (divisorTail (r.setGen n).gen n) data
  rw [hprod, ← hgen, valueAt_polyProduct, valueAt_reverse_genPoly hj, ← gfElem_eq_zero_iff]
  simp

/-- The state after DO of a command that completes with code 0 and leaves these registers and this memory (R116). -/
def afterDo (i : Instr) (s : State) (r : Results) (m : Memory) : State :=
  (((s.accept (encode i)).commit r m).complete (opcode i) 0x00).acknowledge true

section AfterDo

variable (i : Instr) (s : State) (r : Results) (m : Memory)

@[simp] theorem afterDo_res : (afterDo i s r m).res = r := rfl

@[simp] theorem afterDo_mem : (afterDo i s r m).mem = m := rfl

@[simp] theorem afterDo_errCode : (afterDo i s r m).errCode = 0x00 := rfl

@[simp] theorem afterDo_arg0 : (afterDo i s r m).arg0 = s.arg0 := rfl

@[simp] theorem afterDo_arg1 : (afterDo i s r m).arg1 = s.arg1 := rfl

@[simp] theorem afterDo_arg2 : (afterDo i s r m).arg2 = s.arg2 := rfl

end AfterDo

theorem doCommand_of_exec {i : Instr} {s : State} {r : Results} {m : Memory}
    (h : exec i (s.accept (encode i)) = .next (((s.accept (encode i)).commit r m).complete (opcode i) 0x00)) :
    doCommand i s = .next (afterDo i s r m) := by
  rw [doCommand, h, afterDo]

theorem doCommand_rsGen (s : State) {n : Byte} (h1 : 1 ≤ n.toNat) (h30 : n.toNat ≤ 30) :
    doCommand (.rsGen n) s = .next (afterDo (.rsGen n) s (s.res.setGen n.toNat) s.mem) :=
  doCommand_of_exec (exec_rsGen _ h1 h30)

theorem doCommand_rsDiv {s : State} {data : List Byte} (hw : s.mem.wf) (h0 : s.res.genDeg ≠ 0)
    (hr : s.arg0.toNat + s.arg1.toNat ≤ 4096 ∧ s.arg2.toNat + s.res.genDeg.toNat ≤ 4096 ∧
      s.arg1.toNat + s.res.genDeg.toNat ≤ 255)
    (hd : data.length = s.arg1.toNat) (hdata : Holds s.mem (0x1000 + s.arg0.toNat) data) :
    doCommand .rsDiv s = .next (afterDo .rsDiv s s.res (s.mem.writeRange (0x2000 + s.arg2.toNat)
      (rsRemainder (divisorTail s.res.gen s.res.genDeg.toNat) data))) :=
  doCommand_of_exec (exec_rsDiv (s := s.accept (encode .rsDiv)) (o := s.latchOf (encode .rsDiv)) hw rfl h0 hr hd hdata)

theorem doCommand_rsSynd {s : State} {n : Byte} {data ecc : List Byte} (hw : s.mem.wf)
    (hn : 1 ≤ n.toNat ∧ n.toNat ≤ 30)
    (hr : s.arg0.toNat + s.arg1.toNat ≤ 4096 ∧ s.arg2.toNat + n.toNat ≤ 4096 ∧ s.arg1.toNat + n.toNat ≤ 255)
    (hd : data.length = s.arg1.toNat) (hdata : Holds s.mem (0x1000 + s.arg0.toNat) data)
    (he : ecc.length = n.toNat) (hecc : Holds s.mem (0x2000 + s.arg2.toNat) ecc) :
    doCommand (.rsSynd n) s = .next (afterDo (.rsSynd n) s (s.res.setSynd n.toNat (data ++ ecc)) s.mem) :=
  doCommand_of_exec (exec_rsSynd (s := s.accept (encode (.rsSynd n))) (o := s.latchOf (encode (.rsSynd n))) hw rfl hn hr
    hd hdata he hecc)

/-- Settles O39: the codeword that RS_DIV completes is 0 at the generator's roots, which are the points at which RS_SYND
evaluates it. -/
theorem codewordsHaveZeroSyndromes : Obligations.CodewordsHaveZeroSyndromes := by
  intro s n hw _ h1 h30 hr1 hr2 hr3 hwr
  obtain ⟨data, hd, hdata⟩ := exists_holds_of_written hw hwr
  have hdeg := toNat_genDeg_setGen s.res h30
  have hlen := length_rsRemainder (divisorTail (s.res.setGen n.toNat).gen n.toNat) data
  have hzero := fun j (hj : j < n.toNat) => valueAt_append_rsRemainder s.res h1 h30 hj data
  have hdiv := doCommand_rsDiv (s := afterDo (.rsGen n) s (s.res.setGen n.toNat) s.mem) hw
    (genDeg_setGen_ne_zero s.res h1 h30) (by rw [afterDo_res, hdeg]; exact ⟨hr1, hr2, hr3⟩) hd hdata
  rw [length_divisorTail, Nat.min_eq_left (by omega)] at hlen
  rw [afterDo_res, hdeg] at hdiv
  generalize rsRemainder (divisorTail (s.res.setGen n.toNat).gen n.toNat) data = ecc at hlen hzero hdiv
  refine ⟨_, _, _, doCommand_rsGen s h1 h30, hdiv, doCommand_rsSynd (data := data) (ecc := ecc)
    (Memory.writeRange_wf hw _ _) ⟨h1, h30⟩ ⟨hr1, hr2, hr3⟩ hd (holds_writeRange_of_le ?_ hdata) hlen
    (holds_writeRange s.mem _ ecc), rfl, ?_, fun j => ?_⟩
  · simp only [afterDo_arg0, afterDo_arg2]; omega
  · exact (syndromesZero_eq_decide _ _).trans (decide_eq_true hzero)
  · rw [afterDo_res, Results.setSynd_synd, syndromes_getElem]
    split
    · next hj => exact hzero j hj
    · rfl

end Sys2Proof.Machine
end

section
/-! PROOFS. RS_ENCODE_ALL (R158): the blocks the data codewords are cut into (R46, R55), and the ECC bytes of each. -/

namespace Sys2Proof.Machine

open Sys2Proof Sys2Proof.Safety

/-! ### Blocks (R46) -/

/-- The blocks' lengths in order are those of R46's two groups. -/
theorem blockLengths_eq_map {v : Nat} (hv : legalVersion v = true) (e : EccLevel) :
    blockLengths v e = (List.range (numBlocks v e)).map (blockLen v e) := by
  have hlen := (sum_blockLengths hv e).2
  refine List.ext_getElem (by simpa using hlen) fun b hb hb' => ?_
  simp only [blockLengths, List.getElem_append, List.length_replicate, List.getElem_replicate, List.getElem_map,
    List.getElem_range, blockLen, dite_eq_ite]

/-- Block b starts where the blocks before it end. -/
theorem splitBlocks_getElem {ns : List Nat} {bs : List Byte} {b : Nat} (hb : b < ns.length) :
    (splitBlocks ns bs)[b]'(by simpa using hb) = (bs.drop (ns.take b).sum).take ns[b] := by
  induction ns generalizing bs b with
  | nil => simp at hb
  | cons n ns ih =>
    cases b with
    | zero => simp [splitBlocks]
    | succ b => simp [splitBlocks, ih (Nat.lt_of_succ_lt_succ hb)]

/-- Where all parts have n bytes, part b stands from b·n on. -/
theorem getElem?_flatMap_const {α β : Type} {f : α → List β} {n : Nat} (h : ∀ x, (f x).length = n) {xs : List α}
    {b i : Nat} (hb : b < xs.length) (hi : i < n) : (xs.flatMap f)[b * n + i]? = (f xs[b])[i]? := by
  induction xs generalizing b with
  | nil => simp at hb
  | cons x xs ih =>
    rw [List.flatMap_cons]
    cases b with
    | zero => rw [Nat.zero_mul, Nat.zero_add, List.getElem?_append_left (by rw [h]; exact hi)]; rfl
    | succ b =>
      rw [List.getElem?_append_right (by rw [h, Nat.succ_mul]; omega), h,
        show (b + 1) * n + i - n = b * n + i by rw [Nat.succ_mul]; omega, ih (Nat.lt_of_succ_lt_succ hb)]
      rfl

/-- The ECC bytes of block b stand from b·ECC_PER_BLK on (R158). -/
theorem blockEcc_getElem? {v : Nat} (hv : legalVersion v = true) (e : EccLevel) (data : List Byte) {b i : Nat}
    (hb : b < numBlocks v e) (hi : i < eccPerBlk v e) :
    (blockEcc v e data)[b * eccPerBlk v e + i]? = (rsRemainder (genPoly (eccPerBlk v e)).reverse.tail
      ((data.drop (blockStart v e b)).take (blockLen v e b)))[i]? := by
  have hlen := (sum_blockLengths hv e).2
  rw [blockEcc, getElem?_flatMap_const (by simp) (by simpa [hlen] using hb) hi, splitBlocks_getElem (by omega),
    List.tail_reverse]
  simp [blockLengths_eq_map hv e, blockStart, ← List.map_take, List.take_range, Nat.min_eq_left hb.le]

/-- Settles O40: the checks pass, and the ECC bytes stored are cut as `blockEcc_getElem?` says. -/
theorem rsEncodeAllDividesEveryBlock : Obligations.RsEncodeAllDividesEveryBlock := by
  intro s o data hw hl hv hd hdata
  have hok : outcome .rsEncodeAll s = .ok (s.commit (s.res.setGen (eccPerBlk o.v o.e)).flagEcc
      (s.mem.writeRange 0x2000 (blockEcc o.v o.e data))) := by
    rw [outcome, operands_of_latch hl]
    exact doRsEncodeAll_eq_ok.2 ⟨hv, data, readRange_of_holds hw hd hdata, rfl⟩
  have hlen := length_blockEcc hv o.e data
  have hgen := generatorOf_setGen s.res (eccPerBlk_range hv o.e).2
  refine ⟨_, exec_of_outcome_ok hok, fun b hb i hi => ?_, sameOutside_writeRange s.mem _ hlen.le⟩
  have hi : i < eccPerBlk o.v o.e := by simpa [hgen] using hi
  have hlast : b * eccPerBlk o.v o.e + eccPerBlk o.v o.e ≤ numBlocks o.v o.e * eccPerBlk o.v o.e := by
    rw [← Nat.succ_mul]; exact Nat.mul_le_mul_right _ hb
  rw [hgen, Nat.add_assoc, ← blockEcc_getElem? hv o.e data hb hi]
  exact holds_writeRange s.mem 0x2000 _ _ (by omega)

end Sys2Proof.Machine
end

section
/-! PROOFS. INTERLEAVE (R180, R181): what each turn over the blocks hands out, and the closed form as a bijection. -/

namespace Sys2Proof.Machine

open Sys2Proof Sys2Proof.Safety

/-! ### Row-major positions -/

theorem rowMajor_eq_iff {n b i k : Nat} (hb : b < n) : i * n + b = k ↔ k / n = i ∧ k % n = b := by
  rw [Nat.div_mod_unique (Nat.zero_lt_of_lt hb), Nat.add_comm, Nat.mul_comm]
  exact (and_iff_left hb).symm

theorem rowMajor_lt {n b i d : Nat} (hb : b < n) (hi : i < d) : i * n + b < d * n := by
  have h : (i + 1) * n ≤ d * n := Nat.mul_le_mul_right n hi
  rw [Nat.succ_mul] at h
  omega

/-! ### The turns over the blocks (R180) -/

theorem takeTurns_succ (blocks : List (List Byte)) (n : Nat) :
    takeTurns blocks (n + 1) = takeTurns blocks n ++ blocks.filterMap fun bs => bs[n]? := by
  simp [takeTurns, List.range_succ]

/-- A turn in which no block is exhausted takes a codeword of each. -/
theorem filterMap_getElem?_eq_map {blocks : List (List Byte)} {i : Nat} (h : ∀ bs ∈ blocks, i < bs.length) :
    (blocks.filterMap fun bs => bs[i]?) = blocks.map fun bs => bs.getD i 0 :=
  List.filterMap_eq_map_iff_forall_eq_some.2 fun bs hbs => by simp [h bs hbs]

/-- While no block is exhausted, each turn gives a full row. -/
theorem takeTurns_eq_rows {blocks : List (List Byte)} {n : Nat} (h : ∀ bs ∈ blocks, n ≤ bs.length) :
    takeTurns blocks n = (List.range n).flatMap fun i => blocks.map fun bs => bs.getD i 0 :=
  List.flatMap_congr fun _ hi => filterMap_getElem?_eq_map fun bs hbs => (List.mem_range.1 hi).trans_le (h bs hbs)

theorem length_takeTurns_rows {blocks : List (List Byte)} {n : Nat} (h : ∀ bs ∈ blocks, n ≤ bs.length) :
    (takeTurns blocks n).length = n * blocks.length := by
  rw [takeTurns_eq_rows h, length_flatMap_const (n := blocks.length) (by simp), List.length_range]

/-- While no block is exhausted, codeword i of block b stands in row i, column b. -/
theorem getElem?_takeTurns {blocks : List (List Byte)} {n w b i : Nat} (h : ∀ bs ∈ blocks, n ≤ bs.length)
    (hw : blocks.length = w) (hb : b < blocks.length) (hi : i < n) :
    (takeTurns blocks n)[i * w + b]? = blocks[b][i]? := by
  subst hw
  have hlt : i < blocks[b].length := hi.trans_le (h _ (List.getElem_mem hb))
  rw [takeTurns_eq_rows h, getElem?_flatMap_const (by simp) (by simpa using hi) hb]
  simp [hb, hlt]

/-- A turn that finds the first g blocks exhausted takes a codeword of each later one (R182). -/
theorem getElem?_filterMap_drop {blocks : List (List Byte)} {g i b : Nat}
    (hs : ∀ bs ∈ blocks.take g, bs.length ≤ i) (hl : ∀ bs ∈ blocks.drop g, i < bs.length) (hg : g ≤ b)
    (hb : b < blocks.length) :
    (blocks.filterMap fun bs => bs[i]?)[b - g]? = blocks[b][i]? := by
  have hnil : ((blocks.take g).filterMap fun bs => bs[i]?) = [] :=
    List.filterMap_eq_nil_iff.2 fun bs hbs => List.getElem?_eq_none (hs bs hbs)
  have hmem : blocks[b] ∈ blocks.drop g := List.mem_drop_iff_getElem.2 ⟨b - g, by omega, by simp [hg]⟩
  conv_lhs => rw [← List.take_append_drop g blocks, List.filterMap_append, hnil, filterMap_getElem?_eq_map hl]
  simp [hg, hb, hl _ hmem]

theorem length_takeTurns_splitBlocks {ns : List Nat} {bs : List Byte} {n : Nat} (h : bs.length = ns.sum)
    (hn : ∀ l ∈ ns, l ≤ n) : (takeTurns (splitBlocks ns bs) n).length = ns.sum := by
  have hmap : ((splitBlocks ns bs).map fun b => min b.length n) = ns.map fun l => min l n := by
    conv_rhs => rw [← map_length_splitBlocks h, List.map_map]
    rfl
  rw [length_takeTurns, hmap, sum_min_eq hn]

/-- Codeword i of block b, as one of the codewords that were cut. -/
theorem getElem?_splitBlocks_getElem {ns : List Nat} {bs : List Byte} {b i : Nat} (hb : b < ns.length)
    (hi : i < ns[b]) : ((splitBlocks ns bs)[b]'(by simpa using hb))[i]? = bs[(ns.take b).sum + i]? := by
  rw [splitBlocks_getElem hb, List.getElem?_take_of_lt hi, List.getElem?_drop]

/-! ### The two groups of blocks (R46) -/

theorem g1Count_add_g2Count {v : Nat} (hv : legalVersion v = true) (e : EccLevel) :
    g1Count v e + g2Count v e = numBlocks v e :=
  Nat.sub_add_cancel (Nat.mod_lt _ (numBlocks_pos hv e)).le

/-- The data codewords are G1_DATA full rows and one more of every longer block. -/
theorem dataCw_eq_rows {v : Nat} (hv : legalVersion v = true) (e : EccLevel) :
    dataCw v e = g1Data v e * numBlocks v e + g2Count v e := by
  rw [← groups_eq_dataCw hv e, ← g1Count_add_g2Count hv e, g2Data]
  ring

/-- A codeword past the full rows is the last one of a longer block. -/
theorem lastRow_of_le {v : Nat} {e : EccLevel} {b i : Nat} (hi : i < blockLen v e b) (h : g1Data v e ≤ i) :
    i = g1Data v e ∧ g1Count v e ≤ b := by
  unfold blockLen g2Data at hi
  split at hi <;> omega

section DataBlocks

variable {v : Nat} {e : EccLevel} {blocks : List (List Byte)} (h : blocks.map List.length = blockLengths v e)
include h

theorem g1Data_le_dataBlock : ∀ bs ∈ blocks, g1Data v e ≤ bs.length := by
  intro bs hbs
  have hmem := List.mem_map_of_mem (f := List.length) hbs
  rw [h] at hmem
  rcases List.mem_append.1 hmem with hmem | hmem
  · exact (List.eq_of_mem_replicate hmem).ge
  · rw [List.eq_of_mem_replicate hmem]; exact Nat.le_succ _

theorem length_shorter_dataBlock : ∀ bs ∈ blocks.take (g1Count v e), bs.length ≤ g1Data v e := by
  intro bs hbs
  have hmem := List.mem_map_of_mem (f := List.length) hbs
  rw [List.map_take, h, blockLengths, List.take_left' List.length_replicate] at hmem
  exact (List.eq_of_mem_replicate hmem).le

theorem length_longer_dataBlock : ∀ bs ∈ blocks.drop (g1Count v e), g1Data v e < bs.length := by
  intro bs hbs
  have hmem := List.mem_map_of_mem (f := List.length) hbs
  rw [List.map_drop, h, blockLengths, List.drop_left' List.length_replicate] at hmem
  rw [List.eq_of_mem_replicate hmem]
  exact Nat.lt_succ_self _

end DataBlocks

/-! ### The closed form (R181) -/

theorem dataPosition_lt {v : Nat} (hv : legalVersion v = true) (e : EccLevel) {b i : Nat} (hb : b < numBlocks v e)
    (hi : i < blockLen v e b) : dataPosition v e b i < dataCw v e := by
  have hn := g1Count_add_g2Count hv e
  rw [dataCw_eq_rows hv e, dataPosition]
  split
  case isTrue h => exact (rowMajor_lt hb h).trans_le (Nat.le_add_right _ _)
  case isFalse h => have := lastRow_of_le hi (Nat.le_of_not_lt h); omega

theorem eccPosition_lt {v : Nat} (hv : legalVersion v = true) (e : EccLevel) {b i : Nat} (hb : b < numBlocks v e)
    (hi : i < eccPerBlk v e) : eccPosition v e b i < totalCw v := by
  have hrow := rowMajor_lt hb hi
  rw [← (codewords_fit hv e).1, eccPosition, Nat.mul_comm (numBlocks v e)]
  omega

/-- The block whose data codeword stands at position k. -/
def dataBlockAt (v : Nat) (e : EccLevel) (k : Nat) : Nat :=
  if k < g1Data v e * numBlocks v e then k % numBlocks v e else g1Count v e + (k - g1Data v e * numBlocks v e)

/-- The index, in its block, of the data codeword at position k. -/
def dataIndexAt (v : Nat) (e : EccLevel) (k : Nat) : Nat :=
  if k < g1Data v e * numBlocks v e then k / numBlocks v e else g1Data v e

/-- The closed form is undone by `dataBlockAt` and `dataIndexAt`. -/
theorem dataPosition_eq_iff {v : Nat} {e : EccLevel} {b i k : Nat} (hb : b < numBlocks v e)
    (hi : i < blockLen v e b) : dataPosition v e b i = k ↔ b = dataBlockAt v e k ∧ i = dataIndexAt v e k := by
  unfold dataPosition dataBlockAt dataIndexAt
  by_cases h : i < g1Data v e
  · rw [if_pos h]
    have hrow := rowMajor_lt hb h
    by_cases hk : k < g1Data v e * numBlocks v e
    · rw [if_pos hk, if_pos hk, rowMajor_eq_iff hb, and_comm, eq_comm, @eq_comm _ i]
    · rw [if_neg hk, if_neg hk]; omega
  · rw [if_neg h]
    obtain ⟨rfl, hg⟩ := lastRow_of_le hi (Nat.le_of_not_lt h)
    by_cases hk : k < g1Data v e * numBlocks v e
    · have hdiv : k / numBlocks v e < g1Data v e := Nat.div_lt_of_lt_mul (by rwa [Nat.mul_comm])
      rw [if_pos hk, if_pos hk]; omega
    · rw [if_neg hk, if_neg hk]; omega

theorem dataBlockAt_lt {v : Nat} (hv : legalVersion v = true) (e : EccLevel) {k : Nat} (hk : k < dataCw v e) :
    dataBlockAt v e k < numBlocks v e := by
  have hn := g1Count_add_g2Count hv e
  rw [dataCw_eq_rows hv e] at hk
  unfold dataBlockAt
  split
  · exact Nat.mod_lt _ (numBlocks_pos hv e)
  · omega

theorem dataIndexAt_lt (v : Nat) (e : EccLevel) (k : Nat) : dataIndexAt v e k < blockLen v e (dataBlockAt v e k) := by
  have hle : ∀ b, g1Data v e ≤ blockLen v e b := fun b => by unfold blockLen g2Data; split <;> omega
  unfold dataIndexAt
  by_cases hk : k < g1Data v e * numBlocks v e
  · rw [if_pos hk]
    exact (Nat.div_lt_of_lt_mul (by rwa [Nat.mul_comm])).trans_le (hle _)
  · rw [if_neg hk, dataBlockAt, if_neg hk, blockLen, if_neg (Nat.not_lt.2 (Nat.le_add_right _ _))]
    exact Nat.lt_succ_self _

theorem eccPosition_eq_iff {v : Nat} {e : EccLevel} {b i k : Nat} (hb : b < numBlocks v e) (hk : dataCw v e ≤ k) :
    eccPosition v e b i = k ↔ b = (k - dataCw v e) % numBlocks v e ∧ i = (k - dataCw v e) / numBlocks v e := by
  have h : eccPosition v e b i = k ↔ i * numBlocks v e + b = k - dataCw v e := by unfold eccPosition; omega
  rw [h, rowMajor_eq_iff hb, and_comm, eq_comm, @eq_comm _ i]

/-- Every position of the data part is that of exactly one data codeword. -/
theorem exists_dataPosition_eq {v : Nat} (hv : legalVersion v = true) (e : EccLevel) {k : Nat} (hk : k < dataCw v e) :
    ∃ b < numBlocks v e, ∃ i < blockLen v e b, dataPosition v e b i = k ∧
      ∀ b' < numBlocks v e, ∀ i' < blockLen v e b', dataPosition v e b' i' = k → b' = b ∧ i' = i :=
  have hb := dataBlockAt_lt hv e hk
  have hi := dataIndexAt_lt v e k
  ⟨_, hb, _, hi, (dataPosition_eq_iff hb hi).2 ⟨rfl, rfl⟩, fun _ hb' _ hi' => (dataPosition_eq_iff hb' hi').1⟩

/-- Every position of the ECC part is that of exactly one ECC codeword. -/
theorem exists_eccPosition_eq {v : Nat} (hv : legalVersion v = true) (e : EccLevel) {k : Nat} (hk : dataCw v e ≤ k)
    (hkt : k < totalCw v) :
    ∃ b < numBlocks v e, ∃ i < eccPerBlk v e, eccPosition v e b i = k ∧
      ∀ b' < numBlocks v e, ∀ i' < eccPerBlk v e, eccPosition v e b' i' = k → b' = b ∧ i' = i := by
  have hb := Nat.mod_lt (k - dataCw v e) (numBlocks_pos hv e)
  have hfit := (codewords_fit hv e).1
  exact ⟨_, hb, _, Nat.div_lt_of_lt_mul (by omega), (eccPosition_eq_iff hb hk).2 ⟨rfl, rfl⟩,
    fun _ hb' _ _ => (eccPosition_eq_iff hb' hk).1⟩

/-! ### The codeword stream -/

theorem blockLengths_getElem {v : Nat} (hv : legalVersion v = true) (e : EccLevel) {b : Nat}
    (hb : b < (blockLengths v e).length) : (blockLengths v e)[b] = blockLen v e b := by
  simp [blockLengths_eq_map hv e]

theorem sum_take_blockLengths {v : Nat} (hv : legalVersion v = true) (e : EccLevel) {b : Nat} (hb : b < numBlocks v e) :
    ((blockLengths v e).take b).sum = blockStart v e b := by
  rw [blockLengths_eq_map hv e, ← List.map_take, List.take_range, Nat.min_eq_left hb.le, blockStart]

/-- The turns over blocks of R46's two groups hand out codeword i of block b at its closed-form position. -/
theorem getElem?_takeTurns_dataPosition {v : Nat} (hv : legalVersion v = true) {e : EccLevel}
    {blocks : List (List Byte)} (h : blocks.map List.length = blockLengths v e) {b i : Nat} (hb : b < blocks.length)
    (hi : i < blockLen v e b) : (takeTurns blocks (maxDataLen v e))[dataPosition v e b i]? = blocks[b][i]? := by
  have hw : blocks.length = numBlocks v e := by rw [← (sum_blockLengths hv e).2, ← h, List.length_map]
  have hfull := g1Data_le_dataBlock h
  have hrows := length_takeTurns_rows hfull
  unfold dataPosition
  by_cases hrow : i < g1Data v e
  · obtain ⟨last, hlast⟩ : takeTurns blocks (g1Data v e) <+: takeTurns blocks (maxDataLen v e) := by
      unfold maxDataLen g2Data
      split
      · rw [takeTurns_succ]; exact List.prefix_append _ _
      · exact List.prefix_rfl
    have hlt : i * numBlocks v e + b < (takeTurns blocks (g1Data v e)).length := by
      rw [hrows, hw]; exact rowMajor_lt (hb.trans_eq hw) hrow
    rw [if_pos hrow, ← hlast, List.getElem?_append_left hlt, getElem?_takeTurns hfull hw hb hrow]
  · obtain ⟨rfl, hg⟩ := lastRow_of_le hi (Nat.le_of_not_lt hrow)
    have hn := g1Count_add_g2Count hv e
    have hmax : maxDataLen v e = g1Data v e + 1 := if_pos (by omega)
    rw [if_neg hrow, hmax, takeTurns_succ, ← hw, ← hrows, List.getElem?_append_right (Nat.le_add_right _ _),
      Nat.add_sub_cancel_left,
      getElem?_filterMap_drop (length_shorter_dataBlock h) (length_longer_dataBlock h) hg hb]

/-- Data codeword i of block b stands at its closed-form position. -/
theorem interleaved_dataPosition {v : Nat} (hv : legalVersion v = true) (e : EccLevel) {data : List Byte}
    (ecc : List Byte) (hd : data.length = dataCw v e) {b i : Nat} (hb : b < numBlocks v e) (hi : i < blockLen v e b) :
    (interleaved v e data ecc)[dataPosition v e b i]? = data[blockStart v e b + i]? := by
  obtain ⟨hsum, hcount⟩ := sum_blockLengths hv e
  have hb' : b < (blockLengths v e).length := hb.trans_eq hcount.symm
  have hlen := length_takeTurns_splitBlocks (hd.trans hsum.symm) (blockLengths_le hv e)
  have hcut := map_length_splitBlocks (hd.trans hsum.symm)
  rw [interleaved, List.getElem?_append_left (by rw [hlen, hsum]; exact dataPosition_lt hv e hb hi),
    getElem?_takeTurns_dataPosition hv hcut (by simpa) hi,
    getElem?_splitBlocks_getElem hb' (by rwa [blockLengths_getElem hv]), sum_take_blockLengths hv e hb]

/-- ECC codeword i of block b stands at its closed-form position: the ECC blocks are all full rows. -/
theorem interleaved_eccPosition {v : Nat} (hv : legalVersion v = true) (e : EccLevel) {data ecc : List Byte}
    (hd : data.length = dataCw v e) (he : ecc.length = numBlocks v e * eccPerBlk v e) {b i : Nat}
    (hb : b < numBlocks v e) (hi : i < eccPerBlk v e) :
    (interleaved v e data ecc)[eccPosition v e b i]? = ecc[b * eccPerBlk v e + i]? := by
  have hsum := (sum_blockLengths hv e).1
  have hlen := length_takeTurns_splitBlocks (hd.trans hsum.symm) (blockLengths_le hv e)
  have hb' : b < (List.replicate (numBlocks v e) (eccPerBlk v e)).length := by simpa
  have hfull : ∀ bs ∈ splitBlocks (List.replicate (numBlocks v e) (eccPerBlk v e)) ecc,
      eccPerBlk v e ≤ bs.length := by
    intro bs hbs
    have hmem := List.mem_map_of_mem (f := List.length) hbs
    rw [map_length_splitBlocks (by simp [he])] at hmem
    exact (List.eq_of_mem_replicate hmem).ge
  rw [interleaved, eccPosition, Nat.add_assoc, ← hsum, ← hlen, List.getElem?_append_right (Nat.le_add_right _ _),
    Nat.add_sub_cancel_left, getElem?_takeTurns hfull (by simp) (by simpa) hi,
    getElem?_splitBlocks_getElem hb' (by simpa), List.take_replicate, Nat.min_eq_left hb.le, List.sum_replicate,
    smul_eq_mul]

/-! ### The command -/

/-- A stored byte that is one of the bytes a range holds reads as that byte does. -/
theorem read_writeRange_of_getElem? {m : Memory} {a a' p q : Nat} {bs bs' : List Byte} (hm : Holds m a' bs')
    (hp : p < bs.length) (h : bs[p]? = bs'[q]?) : (m.writeRange a bs).read (a + p) = m.read (a' + q) := by
  have hq : q < bs'.length := by
    by_contra hq
    rw [List.getElem?_eq_none (Nat.le_of_not_lt hq), List.getElem?_eq_none_iff] at h
    omega
  rw [holds_writeRange m a bs p hp, h, hm q hq]

/-- INTERLEAVE passes its check and stores the stream of the codewords it reads. -/
theorem exec_interleave {s : State} {o : Latch} {data ecc : List Byte} (hw : s.mem.wf) (hl : s.latch = some o)
    (hv : legalVersion o.v = true) (hd : data.length = dataCw o.v o.e) (hdata : Holds s.mem 0x1000 data)
    (he : ecc.length = numBlocks o.v o.e * eccPerBlk o.v o.e) (hecc : Holds s.mem 0x2000 ecc) :
    exec .interleave s = .next ((s.commit (s.res.setCwLen (totalCw o.v)).flagIlv
      (s.mem.writeRange 0x3000 (interleaved o.v o.e data ecc))).complete 0x18 0x00) := by
  refine exec_of_outcome_ok (i := .interleave) ?_
  rw [outcome, operands_of_latch hl, ← length_interleaved hv o.e hd he]
  exact doInterleave_eq_ok.2 ⟨hv, data, readRange_of_holds hw hd hdata, ecc, readRange_of_holds hw he hecc, rfl⟩

/-- Settles O41: the stream stored holds every codeword at its closed-form position, and `dataPosition_eq_iff` and
`eccPosition_eq_iff` undo the closed form. -/
theorem interleaveFollowsTheClosedForm : Obligations.InterleaveFollowsTheClosedForm := by
  intro s o hw hl hv hdw hew
  obtain ⟨data, hd, hdata⟩ := exists_holds_of_written hw hdw
  obtain ⟨ecc, he, hecc⟩ := exists_holds_of_written hw hew
  have hlen := length_interleaved hv o.e hd he
  refine ⟨_, exec_interleave hw hl hv hd hdata he hecc, fun b hb i hi => ?_, fun b hb i hi => ?_,
    fun k => exists_dataPosition_eq hv o.e, fun k => exists_eccPosition_eq hv o.e,
    sameOutside_writeRange s.mem _ hlen.le⟩
  · have hpos := dataPosition_lt hv o.e hb hi
    have hfit := (codewords_fit hv o.e).1
    rw [Nat.add_assoc]
    exact ⟨hpos, read_writeRange_of_getElem? hdata (by omega) (interleaved_dataPosition hv o.e ecc hd hb hi)⟩
  · have hpos := eccPosition_lt hv o.e hb hi
    rw [Nat.add_assoc]
    exact ⟨hpos, read_writeRange_of_getElem? hecc (by omega) (interleaved_eccPosition hv o.e hd he hb hi)⟩

end Sys2Proof.Machine
end

section
/-! PROOFS. The order of the zigzag (R201): the pairs' parities, which give each pair its number and its direction. -/

namespace Sys2Proof.Machine

open Sys2Proof Sys2Proof.Safety

/-- The right columns are even from 6 on, and odd below, where column 6 has been stepped over (R201). -/
theorem mod_two_of_mem_pairColumns {fuel right x : Nat} (hpar : right % 2 = if 6 ≤ right then 0 else 1)
    (hx : x ∈ pairColumns fuel right) : x % 2 = if 6 < x then 0 else 1 := by
  induction fuel generalizing right with
  | zero => simp [pairColumns] at hx
  | succ fuel ih =>
    unfold pairColumns at hx
    split at hx
    · simp at hx
    · next hpos =>
      rcases List.mem_cons.1 hx with rfl | hx
      · split_ifs at hpar ⊢ <;> omega
      · by_cases h2 : right ≤ 2
        · obtain rfl : right = 1 := by split_ifs at hpar <;> omega
          rw [if_neg (by omega), pairColumns_zero] at hx
          simp at hx
        · refine ih ?_ hx
          split_ifs at hpar ⊢ <;> omega

/-- The right column of a pair of the symbol: where it can stand, and its parity (R201). -/
theorem pairColumn_spec {v x : Nat} (hx : x ∈ pairColumns (side v) (side v - 1)) :
    1 ≤ x ∧ x < side v ∧ x % 2 = if 6 < x then 0 else 1 := by
  have hs : 17 ≤ side v ∧ side v % 2 = 1 := by unfold side; omega
  obtain ⟨h1, hle⟩ := (pairColumns_spec _ _).1 x hx
  refine ⟨h1, by omega, mod_two_of_mem_pairColumns ?_ hx⟩
  rw [if_pos (by omega)]; omega

/-- Both columns of a pair have the pair's number. -/
theorem pairIndex_left {v x : Nat} (hx : x ∈ pairColumns (side v) (side v - 1)) :
    pairIndex (side v) (x - 1) = pairIndex (side v) x := by
  obtain ⟨h1, hlt, hpar⟩ := pairColumn_spec hx
  unfold pairIndex side at *
  split_ifs at * <;> omega

/-- The pairs are numbered from the right. -/
theorem pairIndex_lt {v x y : Nat} (hx : x ∈ pairColumns (side v) (side v - 1))
    (hy : y ∈ pairColumns (side v) (side v - 1)) (hxy : y + 2 ≤ x) :
    pairIndex (side v) x < pairIndex (side v) y := by
  obtain ⟨-, hx, hxpar⟩ := pairColumn_spec hx
  obtain ⟨hy, -, hypar⟩ := pairColumn_spec hy
  unfold pairIndex side at *
  split_ifs at * <;> omega

/-- The loop's test of the direction is the parity of the pair's number: the first pair goes up, and the step over
column 6 turns nothing round (R201). -/
theorem upward_iff {v x : Nat} (hx : x ∈ pairColumns (side v) (side v - 1)) :
    (x + 1) &&& 2 = 0 ↔ pairIndex (side v) x % 2 = 0 := by
  obtain ⟨h1, hlt, hpar⟩ := pairColumn_spec hx
  rw [show (x + 1) &&& 2 = ((x + 1).testBit 1).toNat * 2 from Nat.and_two_pow (x + 1) 1, Nat.toNat_testBit]
  unfold pairIndex side at *
  split_ifs at * <;> omega

/-- One row comes before another in a pair with the number k: the higher row number first going up, the lower first
going down (R201). -/
def RowBefore (k r r' : Nat) : Prop := (k % 2 = 0 ∧ r' < r) ∨ (k % 2 = 1 ∧ r < r')

theorem pairRows_pairwise {v x : Nat} (hx : x ∈ pairColumns (side v) (side v - 1)) :
    (pairRows (side v) x).Pairwise (RowBefore (pairIndex (side v) x)) := by
  unfold pairRows
  split
  · next hup =>
    rw [upward_iff hx] at hup
    refine List.pairwise_map.2 (List.pairwise_lt_range.imp_of_mem fun hr hr' hlt => .inl ⟨hup, ?_⟩)
    rw [List.mem_range] at hr hr'
    omega
  · next hdown =>
    rw [upward_iff hx, Nat.mod_two_not_eq_zero] at hdown
    exact List.pairwise_lt_range.imp fun hlt => .inr ⟨hdown, hlt⟩

/-- The path follows R201's order. -/
theorem zigzagPath_pairwise (v : Nat) : (zigzagPath (side v)).Pairwise (VisitedBefore (side v)) := by
  have mem_pair {x r : Nat} {p : Nat × Nat} (hx : x ∈ pairColumns (side v) (side v - 1))
      (hp : p ∈ [(r, x), (r, x - 1)]) : p.1 = r ∧ pairIndex (side v) p.2 = pairIndex (side v) x := by
    simp only [List.mem_cons, List.not_mem_nil, or_false] at hp
    obtain rfl | rfl := hp
    · exact ⟨rfl, rfl⟩
    · exact ⟨rfl, pairIndex_left hx⟩
  refine List.pairwise_flatMap.2 ⟨fun x hx => List.pairwise_flatMap.2 ⟨fun r _ => ?_, ?_⟩, ?_⟩
  · refine List.pairwise_pair.2 (.inr ⟨(pairIndex_left hx).symm, .inr (.inr ⟨rfl, ?_⟩)⟩)
    exact Nat.sub_lt (pairColumn_spec hx).1 Nat.one_pos
  · refine (pairRows_pairwise hx).imp fun hrow p hp q hq => ?_
    obtain ⟨rfl, hpi⟩ := mem_pair hx hp
    obtain ⟨rfl, hqi⟩ := mem_pair hx hq
    rw [← hpi] at hrow
    exact .inr ⟨hpi.trans hqi.symm, hrow.imp_right .inl⟩
  · refine (pairColumns_spec _ _).2.imp_of_mem fun hx hy hxy p hp q hq => ?_
    obtain ⟨r, -, hp⟩ := List.mem_flatMap.1 hp
    obtain ⟨r', -, hq⟩ := List.mem_flatMap.1 hq
    refine .inl ?_
    rw [(mem_pair hx hp).2, (mem_pair hy hq).2]
    exact pairIndex_lt hx hy hxy

/-- The zigzag lists exactly the free data modules outside column 6 (R201). -/
theorem mem_zigzag {v : Nat} {g : Grid} {p : Nat × Nat} :
    p ∈ zigzag (side v) g ↔ ((p.1 < side v ∧ p.2 < side v) ∧ p.2 ≠ 6) ∧ isFree (gridAt g p.1 p.2) = true := by
  have hs : 7 ≤ side v ∧ side v % 2 = 1 := by unfold side; omega
  rw [zigzag, List.mem_filter, mem_zigzagPath hs.1 hs.2]

/-- Settles O45: the zigzag is the path, which has R201's order, less the modules that are not free. -/
theorem zigzagOrder : Obligations.ZigzagOrder := by
  refine fun v g _ => ⟨(zigzagPath_pairwise v).filter _, fun r c => ?_⟩
  rw [mem_zigzag, isFree_eq, beq_iff_eq, and_assoc, and_assoc]

end Sys2Proof.Machine
end

section
/-! PROOFS. MX_PLACE (R200, R202, R203): the bits it places, and the module each goes to. -/

namespace Sys2Proof.Machine

open Sys2Proof Sys2Proof.Safety

/-- Bit k of the stream: the codewords' bits, most significant first, and Light after them (R202, R203). -/
theorem getElem?_placedBits {v k : Nat} {cw : List Byte} (hl : cw.length = totalCw v)
    (hk : k < 8 * totalCw v + remBits v) : (placedBits v cw)[k]? =
      some (decide (k < 8 * totalCw v ∧ (cw.getD (k / 8) 0).getLsbD (7 - k % 8) = true)) := by
  have hlen : (cw.flatMap msbBits).length = 8 * totalCw v := by simp [List.length_flatMap, msbBits, hl, Nat.mul_comm]
  by_cases hlt : k < 8 * totalCw v
  · have hb : k / 8 < cw.length := by omega
    have hbit (b : Byte) {i : Nat} (hi : i < 8) : (msbBits b)[i]? = some (b.getLsbD (7 - i)) := by
      interval_cases i <;> rfl
    have h := getElem?_flatMap_const (f := msbBits) (fun _ => rfl) hb (Nat.mod_lt k (by decide : 0 < 8))
    rw [Nat.div_add_mod'] at h
    rw [placedBits, List.getElem?_append_left (by omega), h, hbit _ (Nat.mod_lt k (by decide)),
      List.getD_eq_getElem _ _ hb]
    simp [hlt]
  · rw [placedBits, List.getElem?_append_right (by omega), List.getElem?_replicate_of_lt (by omega)]
    simp [hlt]

/-- Looking a key up in a list of distinct keys gives the value at its place. -/
theorem lookup_zip_of_getElem? {α β : Type} [BEq α] [LawfulBEq α] {as : List α} {bs : List β} (hn : as.Nodup) {k : Nat}
    {a : α} {b : β} (ha : as[k]? = some a) (hb : bs[k]? = some b) : (as.zip bs).lookup a = some b := by
  induction as generalizing bs k with
  | nil => simp at ha
  | cons x as ih =>
    obtain ⟨hx, hn⟩ := List.nodup_cons.1 hn
    cases bs with
    | nil => simp at hb
    | cons y bs =>
      rw [List.zip_cons_cons, List.lookup_cons]
      cases k with
      | zero => cases ha; cases hb; simp
      | succ k =>
        have hne : (a == x) = false := beq_false_of_ne fun h => hx (h ▸ List.mem_of_getElem? ha)
        rw [hne]
        exact ih hn ha hb

/-- A key that stands in no pair is not found. -/
theorem lookup_zip_eq_none {α β : Type} [BEq α] [LawfulBEq α] {as : List α} (bs : List β) {a : α} (ha : a ∉ as) :
    (as.zip bs).lookup a = none := by
  rw [List.lookup_eq_none_iff]
  intro p hp
  exact bne_iff_ne.2 fun h => ha (h ▸ (List.of_mem_zip hp).1)

/-- The zigzag's modules have distinct offsets (R85, R201). -/
theorem nodup_zigzag_matAddr {v : Nat} (hv : legalVersion v = true) (g : Grid) :
    ((zigzag (side v) g).map fun p => matAddr p.1 p.2).Nodup := by
  refine List.Nodup.map_on (fun p hp q hq h => ?_) ((nodup_zigzagPath _).filter _)
  obtain ⟨⟨⟨-, hp⟩, -⟩, -⟩ := mem_zigzag.1 hp
  obtain ⟨⟨⟨-, hq⟩, -⟩, -⟩ := mem_zigzag.1 hq
  have hs := (side_le hv).2
  exact Prod.ext_iff.2 (matAddr_inj (by omega) (by omega) h)

/-- A free data module with its bit placed (R56, R200). -/
theorem placeBit_of_isFree (bit : Bool) : ∀ b : Byte, isFree b = true →
    placeBit bit b = if bit = true then 0x09 else 0x08 := by
  cases bit <;> decide +kernel

/-- The k-th module of the zigzag gets the k-th bit (R200). -/
theorem read_placeModules_zigzag {m : Memory} (hw : m.wf) {v : Nat} (hv : legalVersion v = true) {g : Grid}
    (hg : readSymbol m (side v) = some g) {bits : List Bool} {k : Nat} {p : Nat × Nat} {bit : Bool}
    (hp : (zigzag (side v) g)[k]? = some p) (hbit : bits[k]? = some bit) :
    (placeModules m (side v) (placements (zigzag (side v) g) bits)).read (matAddr p.1 p.2) =
      some (if bit = true then 0x09 else 0x08) := by
  obtain ⟨⟨⟨hr, hc⟩, -⟩, hfree⟩ := mem_zigzag.1 (List.mem_of_getElem? hp)
  have hlookup : (placements (zigzag (side v) g) bits).lookup (matAddr p.1 p.2) = some bit :=
    lookup_zip_of_getElem? (nodup_zigzag_matAddr hv g) (by rw [List.getElem?_map, hp]; rfl) hbit
  rw [read_placeModules, ((readSymbol_eq_some hw).1 hg).2.2 _ _ hr hc, hlookup,
    inSymbol_matAddr (side_le hv).2 hr hc, ← placeBit_of_isFree bit _ hfree]
  rfl

/-- MX_PLACE stores in the modules of its list alone (R200). -/
theorem sameOutside_placements (m : Memory) (s : Nat) (order : List (Nat × Nat)) (bits : List Bool) :
    SameOutside m (placeModules m s (placements order bits)) fun a =>
      ∃ p ∈ order, a = 0x8000 + 177 * p.1 + p.2 := by
  intro a ha
  have hnone : (placements order bits).lookup a = none := by
    refine lookup_zip_eq_none _ fun hmem => ha ?_
    obtain ⟨p, hp, rfl⟩ := List.mem_map.1 hmem
    exact ⟨p, hp, rfl⟩
  rw [read_placeModules, hnone]
  cases m.read a <;> simp

/-- MX_PLACE passes its checks and places the bits of the codewords it reads. -/
theorem exec_mxPlace {s : State} {o : Latch} {g : Grid} {cw : List Byte} (hw : s.mem.wf) (hl : s.latch = some o)
    (hv : legalVersion o.v = true) (hf : s.res.funcDone = true) (hm : s.res.mxVersion = o.version)
    (hp : s.res.placed = false) (hg : readSymbol s.mem (side o.v) = some g)
    (hz : (zigzag (side o.v) g).length = 8 * totalCw o.v + remBits o.v) (hc : cw.length = totalCw o.v)
    (hcw : Holds s.mem 0x3000 cw) :
    exec .mxPlace s = .next ((s.commit s.res.flagPlaced
      (placeModules s.mem (side o.v) (placements (zigzag (side o.v) g) (placedBits o.v cw)))).complete 0x21 0x00) := by
  refine exec_of_outcome_ok (i := .mxPlace) ?_
  rw [outcome, operands_of_latch hl]
  exact doMxPlace_eq_ok.2 ⟨hv, ⟨hp, hf, hm⟩, g, hg, hz, cw, readRange_of_holds hw hc hcw, rfl⟩

/-- Settles O46: the module at place k of the zigzag is found in the list of placements with bit k of the stream. -/
theorem mxPlaceStoresTheBits : Obligations.MxPlaceStoresTheBits := by
  intro s o g cw hw hl hv hf hm hp hg hz hc hcw
  refine ⟨_, exec_mxPlace hw hl hv hf hm hp hg hz hc hcw, fun k r c hk => ?_, sameOutside_placements _ _ _ _⟩
  have hlt : k < (zigzag (side o.v) g).length := (List.getElem?_eq_some_iff.1 hk).1
  have h := read_placeModules_zigzag hw hv hg hk (getElem?_placedBits hc (hz ▸ hlt))
  simp only [decide_eq_true_eq] at h
  exact h

end Sys2Proof.Machine
end

section
/-! PROOFS. FMT_WRITE and VER_WRITE (R196, R197, R254, R255): single writes at positions that are each one bit's. -/

namespace Sys2Proof.Machine

open Sys2Proof Sys2Proof.Safety

/-! ### Module bytes at numbered positions -/

/-- The bytes stored at a list of positions, each the byte of its position's number. -/
def moduleWrites (ps : List ((Nat × Nat) × Nat)) (f : Nat → Byte) : List Host.Cell :=
  ps.map fun p => (matAddr p.1.1 p.1.2, f p.2)

theorem formatModules_eq (s : Nat) (w : BitVec 15) :
    formatModules s w = moduleWrites (fmtPositions s) fun i => moduleByte (w.getLsbD i) .format true := rfl

theorem versionModules_eq (s : Nat) (w : BitVec 18) :
    versionModules s w = moduleWrites (verPositions s) fun i => moduleByte (w.getLsbD i) .version true := rfl

/-- Where no position has two numbers, each is left with the byte of its number. -/
theorem moduleAt_moduleWrites (m : Memory) {ps : List ((Nat × Nat) × Nat)} (f : Nat → Byte)
    (hcol : ∀ p ∈ ps, p.1.2 < 177) (hfun : ∀ p ∈ ps, ∀ q ∈ ps, p.1 = q.1 → p.2 = q.2) {p : (Nat × Nat) × Nat}
    (hp : p ∈ ps) : moduleAt (m.writeEach (moduleWrites ps f)) p.1.1 p.1.2 = some (f p.2) := by
  refine Memory.read_writeEach_of_mem (w := (matAddr p.1.1 p.1.2, f p.2)) (List.mem_map.2 ⟨p, hp, rfl⟩) fun w hw h => ?_
  obtain ⟨q, hq, rfl⟩ := List.mem_map.1 hw
  exact congrArg f (hfun q hq p hp (Prod.ext_iff.2 (matAddr_inj (hcol q hq) (hcol p hp) h)))

theorem sameOutside_moduleWrites (m : Memory) (ps : List ((Nat × Nat) × Nat)) (f : Nat → Byte) :
    SameOutside m (m.writeEach (moduleWrites ps f)) fun a => ∃ p ∈ ps, a = 0x8000 + 177 * p.1.1 + p.1.2 := by
  refine fun a ha => Memory.read_writeEach_of_ne fun w hw h => ha ?_
  obtain ⟨p, hp, rfl⟩ := List.mem_map.1 hw
  exact ⟨p, hp, h.symm⟩

/-! ### The positions of R196 and R197 -/

theorem mem_fmtPositions {s : Nat} {p : (Nat × Nat) × Nat} :
    p ∈ fmtPositions s ↔ p.2 < 15 ∧ (p.1 = fmtPosA p.2 ∨ p.1 = fmtPosB s p.2) := by
  simp only [fmtPositions, List.mem_flatMap, List.mem_range, List.mem_cons, List.not_mem_nil, or_false, Prod.ext_iff]
  grind

theorem mem_verPositions {s : Nat} {p : (Nat × Nat) × Nat} :
    p ∈ verPositions s ↔ p.2 < 18 ∧ (p.1 = verPosA s p.2 ∨ p.1 = verPosB s p.2) := by
  simp only [verPositions, List.mem_flatMap, List.mem_range, List.mem_cons, List.not_mem_nil, or_false, Prod.ext_iff]
  grind

/-- Copy A stands at the top left corner (R196). -/
theorem fmtPosA_corner : ∀ i < 15, (fmtPosA i).1 + (fmtPosA i).2 ≤ 16 := by decide

theorem fmtPosA_inj : ∀ i < 15, ∀ j < 15, fmtPosA i = fmtPosA j → i = j := by decide

/-- Copy B stands past the diagonal between the two other finders (R196). -/
theorem fmtPosB_corner {s i : Nat} (hs : 21 ≤ s) (hi : i < 15) : s ≤ (fmtPosB s i).1 + (fmtPosB s i).2 := by
  unfold fmtPosB
  split <;> simp only <;> omega

theorem fmtPosB_inj {s i j : Nat} (hs : 21 ≤ s) (hi : i < 15) (hj : j < 15) (h : fmtPosB s i = fmtPosB s j) :
    i = j := by
  unfold fmtPosB at h
  split_ifs at h <;> simp only [Prod.mk.injEq] at h <;> omega

/-- No format module holds two bits (R196). -/
theorem fmtPositions_functional {s : Nat} (hs : 21 ≤ s) : ∀ p ∈ fmtPositions s, ∀ q ∈ fmtPositions s,
    p.1 = q.1 → p.2 = q.2 := by
  have apart {i j : Nat} (hi : i < 15) (hj : j < 15) (h : fmtPosA i = fmtPosB s j) : i = j := by
    have hA := fmtPosA_corner i hi
    have hB := fmtPosB_corner hs hj
    rw [h] at hA
    omega
  intro p hp q hq h
  obtain ⟨hp, hpA | hpB⟩ := mem_fmtPositions.1 hp <;> obtain ⟨hq, hqA | hqB⟩ := mem_fmtPositions.1 hq
  · exact fmtPosA_inj _ hp _ hq (hpA ▸ hqA ▸ h)
  · exact apart hp hq (hpA ▸ hqB ▸ h)
  · exact (apart hq hp (hqA ▸ hpB ▸ h.symm)).symm
  · exact fmtPosB_inj hs hp hq (hpB ▸ hqB ▸ h)

/-- No version module holds two bits (R197). -/
theorem verPositions_functional {s : Nat} (hs : 21 ≤ s) : ∀ p ∈ verPositions s, ∀ q ∈ verPositions s,
    p.1 = q.1 → p.2 = q.2 := by
  intro p hp q hq h
  obtain ⟨hp, hpA | hpB⟩ := mem_verPositions.1 hp <;> obtain ⟨hq, hqA | hqB⟩ := mem_verPositions.1 hq <;>
    simp only [*, verPosA, verPosB, Prod.mk.injEq] at h <;> omega

/-! ### The commands -/

/-- FMT_WRITE passes its checks and stores both copies of its word. -/
theorem exec_fmtWrite {s : State} {o : Latch} {k : Byte} (hl : s.latch = some o) (hv : legalVersion o.v = true)
    (hf : s.res.funcDone = true) (hm : s.res.mxVersion = o.version) (hk : k.toNat ≤ 7) :
    exec (.fmtWrite k) s = .next ((s.commit (s.res.setFmtWord (formatWord o.e k.toNat)).flagFmt
      (s.mem.writeEach (formatModules (side o.v) (formatWord o.e k.toNat)))).complete 0x32 0x00) := by
  refine exec_of_outcome_ok (i := .fmtWrite k) ?_
  rw [outcome, operands_of_latch hl]
  exact doFmtWrite_eq_ok.2 ⟨hv, hk, ⟨hf, hm⟩, rfl⟩

/-- VER_WRITE passes its checks and stores both copies of its word from version 7 on. -/
theorem exec_verWrite {s : State} {o : Latch} (hl : s.latch = some o) (hv : legalVersion o.v = true)
    (hf : s.res.funcDone = true) (hm : s.res.mxVersion = o.version) (h7 : 7 ≤ o.v) :
    exec .verWrite s = .next ((s.commit (s.res.setVerWord (versionWord s.params o.v)).flagVer
      (s.mem.writeEach (versionModules (side o.v) (versionWord s.params o.v)))).complete 0x33 0x00) := by
  refine exec_of_outcome_ok (i := .verWrite) ?_
  rw [outcome, operands_of_latch hl]
  exact doVerWrite_eq_ok.2 ⟨hv, ⟨hf, hm⟩, .inl ⟨h7, rfl⟩⟩

/-- VER_WRITE below version 7 writes its register and its flag alone. -/
theorem exec_verWrite_below {s : State} {o : Latch} (hl : s.latch = some o) (hv : legalVersion o.v = true)
    (hf : s.res.funcDone = true) (hm : s.res.mxVersion = o.version) (h7 : o.v < 7) :
    exec .verWrite s = .next ((s.commit (s.res.setVerWord 0).flagVer s.mem).complete 0x33 0x00) := by
  refine exec_of_outcome_ok (i := .verWrite) ?_
  rw [outcome, operands_of_latch hl]
  exact doVerWrite_eq_ok.2 ⟨hv, ⟨hf, hm⟩, .inr ⟨h7, rfl⟩⟩

/-- A format module written with a bit (R56, R254). -/
theorem moduleByte_format (bit : Bool) : moduleByte bit .format true = if bit then 0x0D else 0x0C := by
  cases bit <;> decide

/-- A version module written with a bit (R56, R255). -/
theorem moduleByte_version (bit : Bool) : moduleByte bit .version true = if bit then 0x0F else 0x0E := by
  cases bit <;> decide

/-- FMT_WRITE leaves every format module with its bit, assigned (R254). -/
theorem moduleAt_formatModules (m : Memory) {v : Nat} (hv : legalVersion v = true) (w : BitVec 15) {i : Nat}
    {p : Nat × Nat} (hi : i < 15) (hp : p = fmtPosA i ∨ p = fmtPosB (side v) i) :
    moduleAt (m.writeEach (formatModules (side v) w)) p.1 p.2 = some (if w.getLsbD i then 0x0D else 0x0C) := by
  obtain ⟨hlo, hhi⟩ := side_le hv
  rw [formatModules_eq, ← moduleByte_format]
  exact moduleAt_moduleWrites m (p := (p, i)) _ (fun q hq => (fmtPositions_lt hlo hq).2.1.trans_le hhi)
    (fmtPositions_functional hlo) (mem_fmtPositions.2 ⟨hi, hp⟩)

/-- VER_WRITE leaves every version module with its bit, assigned (R255). -/
theorem moduleAt_versionModules (m : Memory) {v : Nat} (hv : legalVersion v = true) (w : BitVec 18) {i : Nat}
    {p : Nat × Nat} (hi : i < 18) (hp : p = verPosA (side v) i ∨ p = verPosB (side v) i) :
    moduleAt (m.writeEach (versionModules (side v) w)) p.1 p.2 = some (if w.getLsbD i then 0x0F else 0x0E) := by
  obtain ⟨hlo, hhi⟩ := side_le hv
  rw [versionModules_eq, ← moduleByte_version]
  exact moduleAt_moduleWrites m (p := (p, i)) _ (fun q hq => (verPositions_lt hlo hq).2.1.trans_le hhi)
    (verPositions_functional hlo) (mem_verPositions.2 ⟨hi, hp⟩)

theorem sameOutside_formatModules (m : Memory) (s : Nat) (w : BitVec 15) :
    SameOutside m (m.writeEach (formatModules s w)) fun a => ∃ i < 15, ∃ p, (p = fmtPosA i ∨ p = fmtPosB s i) ∧
      a = 0x8000 + 177 * p.1 + p.2 := by
  rw [formatModules_eq]
  refine sameOutside_mono ?_ (sameOutside_moduleWrites m _ _)
  rintro a ⟨p, hp, rfl⟩
  obtain ⟨hi, hp⟩ := mem_fmtPositions.1 hp
  exact ⟨p.2, hi, p.1, hp, rfl⟩

theorem sameOutside_versionModules (m : Memory) (s : Nat) (w : BitVec 18) :
    SameOutside m (m.writeEach (versionModules s w)) fun a => ∃ i < 18, ∃ p, (p = verPosA s i ∨ p = verPosB s i) ∧
      a = 0x8000 + 177 * p.1 + p.2 := by
  rw [versionModules_eq]
  refine sameOutside_mono ?_ (sameOutside_moduleWrites m _ _)
  rintro a ⟨p, hp, rfl⟩
  obtain ⟨hi, hp⟩ := mem_verPositions.1 hp
  exact ⟨p.2, hi, p.1, hp, rfl⟩

/-- Settles O56: both commands store single bytes at positions that are each one bit's. -/
theorem informationWritesStoreBothCopies : Obligations.InformationWritesStoreBothCopies := by
  rintro s o n hl hv hf hm rfl
  refine ⟨fun k hk => ⟨_, exec_fmtWrite hl hv hf hm hk, ?_, ?_⟩, fun h7 => ⟨_, exec_verWrite hl hv hf hm h7, ?_, ?_⟩,
    fun h6 => exec_verWrite_below hl hv hf hm (Nat.lt_succ_of_le h6)⟩
  · rw [State.commit_mem]
    exact fun i hi p hp => moduleAt_formatModules s.mem hv _ hi hp
  · rw [State.commit_mem]
    exact sameOutside_formatModules s.mem _ _
  · rw [State.commit_mem]
    exact fun i hi p hp => moduleAt_versionModules s.mem hv _ hi hp
  · rw [State.commit_mem]
    exact sameOutside_versionModules s.mem _ _

end Sys2Proof.Machine
end

section
/-! PROOFS. What MX_FUNC draws at each module (R190 to R198): which rule's pattern a module belongs to, and that the
alignment patterns keep clear of the three corners. -/

namespace Sys2Proof.Machine

open Sys2Proof Sys2Proof.Safety

theorem distance_eq_natAbs (a b : Nat) : distance a b = ((a : Int) - b).natAbs := by
  unfold distance; split <;> omega

/-! ### Alignment patterns (R194) -/

/-- The alignment coordinates of a version: even, 6 or past the finders, and s − 7 or well before it (R49). -/
theorem alignCoord_spec {v : Nat} (hv : legalVersion v = true) : ∀ p ∈ alignCoords v,
    p % 2 = 0 ∧ (p = 6 ∨ 18 ≤ p) ∧ (p + 7 = side v ∨ p + 19 ≤ side v) ∧
      (alignCoords v).headD 0 = 6 ∧ (alignCoords v).getLastD 0 + 7 = side v :=
  forall_legal (p := fun v => ∀ p ∈ alignCoords v,
    p % 2 = 0 ∧ (p = 6 ∨ 18 ≤ p) ∧ (p + 7 = side v ∨ p + 19 ≤ side v) ∧
      (alignCoords v).headD 0 = 6 ∧ (alignCoords v).getLastD 0 + 7 = side v) (by decide +kernel) hv

/-- The excluded pairs are those of the three finders' corners (R194). -/
theorem excludedPair_eq_false {v : Nat} (hv : legalVersion v = true) {p q : Nat} (hp : p ∈ alignCoords v) :
    excludedPair (alignCoords v) p q = false ↔
      ¬ (p = 6 ∧ q = 6) ∧ ¬ (p = 6 ∧ q + 7 = side v) ∧ ¬ (p + 7 = side v ∧ q = 6) := by
  obtain ⟨-, -, -, hfirst, hlast⟩ := alignCoord_spec hv p hp
  simp only [excludedPair, hfirst, Bool.or_eq_false_iff, Bool.and_eq_false_iff, beq_eq_false_iff_ne]
  omega

/-- An alignment module lies within 2 of both coordinates of a pair that is not excluded (R194). -/
theorem alignAt_eq_some {v : Nat} (hv : legalVersion v = true) {r c : Nat} {color : Bool} :
    alignAt (alignCoords v) r c = some color ↔ ∃ p ∈ alignCoords v, ∃ q ∈ alignCoords v,
      excludedPair (alignCoords v) p q = false ∧ distance r p ≤ 2 ∧ distance c q ≤ 2 ∧
        (max (distance r p) (distance c q) != 1) = color := by
  have hs := (alignCoords_spaced hv).1
  unfold alignAt
  constructor
  · intro h
    split at h
    · next p q hp hq =>
      obtain ⟨hp, hr⟩ := (nearCoord_eq_some hs).1 hp
      obtain ⟨hq, hc⟩ := (nearCoord_eq_some hs).1 hq
      cases he : excludedPair (alignCoords v) p q
      · rw [he] at h
        exact ⟨p, hp, q, hq, he, hr, hc, Option.some.inj h⟩
      · rw [he] at h
        cases h
    · cases h
  · rintro ⟨p, hp, q, hq, he, hr, hc, rfl⟩
    rw [(nearCoord_eq_some hs).2 ⟨hp, hr⟩, (nearCoord_eq_some hs).2 ⟨hq, hc⟩]
    simp [he]

/-- The pairs of places in the list that R194 leaves out are the pairs of coordinates the machine leaves out. -/
theorem excludedPair_getElem {v : Nat} (hv : legalVersion v = true) {i j : Nat} (hi : i < (alignCoords v).length)
    (hj : j < (alignCoords v).length) (h00 : ¬ (i = 0 ∧ j = 0)) (h0k : ¬ (i = 0 ∧ j = (alignCoords v).length - 1))
    (hk0 : ¬ (i = (alignCoords v).length - 1 ∧ j = 0)) :
    excludedPair (alignCoords v) (alignCoords v)[i] (alignCoords v)[j] = false := by
  have hn : (alignCoords v).Nodup := (alignCoords_spaced hv).1.imp fun h => by omega
  have hpos : 0 < (alignCoords v).length := by omega
  have hfirst : (alignCoords v).headD 0 = (alignCoords v)[0] := by
    rw [List.headD_eq_head?_getD, List.head?_eq_getElem?, List.getElem?_eq_getElem hpos, Option.getD_some]
  have hlast : (alignCoords v).getLastD 0 = (alignCoords v)[(alignCoords v).length - 1] := by
    rw [List.getLastD_eq_getLast?, List.getLast?_eq_getElem?, List.getElem?_eq_getElem, Option.getD_some]
  simp only [excludedPair, hfirst, hlast, Bool.or_eq_false_iff, Bool.and_eq_false_iff, beq_eq_false_iff_ne, ne_eq,
    hn.getElem_inj_iff]
  omega

/-- The alignment pattern around a pair that is not left out (R194). -/
theorem alignAt_pattern {v : Nat} (hv : legalVersion v = true) {p q dr dc : Nat} (hp : p ∈ alignCoords v)
    (hq : q ∈ alignCoords v) (he : excludedPair (alignCoords v) p q = false) (hr : dr < 5) (hc : dc < 5) :
    alignAt (alignCoords v) (p + dr - 2) (q + dc - 2) =
      some (max ((dr : Int) - 2).natAbs ((dc : Int) - 2).natAbs != 1) := by
  have hdist {p d : Nat} (hp : 6 ≤ p) : distance (p + d - 2) p = ((d : Int) - 2).natAbs := by
    rw [distance_eq_natAbs]; omega
  have h6 := (alignCoords_spaced hv).2
  refine (alignAt_eq_some hv).2 ⟨p, hp, q, hq, he, ?_⟩
  rw [hdist (h6 p hp), hdist (h6 q hq)]
  exact ⟨by omega, by omega, rfl⟩

/-- No alignment pattern reaches the three corners, as far as the version areas go (R194, R197). -/
theorem alignAt_corner {v : Nat} (hv : legalVersion v = true) {r c : Nat}
    (h : (r ≤ 8 ∧ c ≤ 8) ∨ (r ≤ 8 ∧ side v ≤ c + 11) ∨ (side v ≤ r + 11 ∧ c ≤ 8)) :
    alignAt (alignCoords v) r c = none := by
  refine Option.eq_none_iff_forall_ne_some.2 fun color hcolor => ?_
  obtain ⟨p, hp, q, hq, he, hr, hc, -⟩ := (alignAt_eq_some hv).1 hcolor
  obtain ⟨-, hp6, hp7, -⟩ := alignCoord_spec hv p hp
  obtain ⟨-, hq6, hq7, -⟩ := alignCoord_spec hv q hq
  rw [excludedPair_eq_false hv hp] at he
  rw [distance_le_two] at hr hc
  omega

/-- Where an alignment pattern crosses a timing pattern, both give the same colour (R190). -/
theorem timingAt_of_alignAt {v : Nat} (hv : legalVersion v = true) {r c : Nat} {color color' : Bool}
    (ha : alignAt (alignCoords v) r c = some color) (ht : timingAt (side v) r c = some color') : color' = color := by
  obtain ⟨p, hp, q, hq, -, hr, hc, rfl⟩ := (alignAt_eq_some hv).1 ha
  obtain ⟨hpeven, hp6, -⟩ := alignCoord_spec hv p hp
  obtain ⟨hqeven, hq6, -⟩ := alignCoord_spec hv q hq
  rw [distance_le_two] at hr hc
  unfold timingAt at ht
  rw [Bool.eq_iff_iff, bne_iff_ne]
  split_ifs at ht <;> obtain rfl := Option.some.inj ht <;> rw [beq_iff_eq] <;> unfold distance <;> split_ifs <;> omega

/-! ### Function modules (R191 to R195) -/

/-- A pattern draws nothing outside the modules it is drawn at. -/
theorem eq_none_of_isSome_eq {x : Option Bool} {p : Prop} [Decidable p] (h : x.isSome = decide p) (hp : ¬ p) :
    x = none := by
  rw [decide_eq_false hp, Option.isSome_eq_false_iff] at h
  exact Option.isNone_iff_eq_none.1 h

theorem finderColor_add (r0 c0 : Nat) {dr dc : Nat} (hr : dr < 7) (hc : dc < 7) :
    finderColor r0 c0 (r0 + dr) (c0 + dc) = some (max ((dr : Int) - 3).natAbs ((dc : Int) - 3).natAbs != 2) := by
  rw [finderColor, if_pos (by omega), distance_eq_natAbs, distance_eq_natAbs]
  push_cast
  simp only [add_sub_add_left_eq_sub]

/-- Each of the three finders has R191's pattern, and no other finder reaches it. -/
theorem finderAt_add {s : Nat} (hs : 21 ≤ s) {corner : Nat × Nat} (h : corner ∈ [(0, 0), (0, s - 7), (s - 7, 0)])
    {dr dc : Nat} (hr : dr < 7) (hc : dc < 7) : finderAt s (corner.1 + dr) (corner.2 + dc) =
      some (max ((dr : Int) - 3).natAbs ((dc : Int) - 3).natAbs != 2) := by
  have h00 := finderColor_isSome 0 0 (corner.1 + dr) (corner.2 + dc)
  have h07 := finderColor_isSome 0 (s - 7) (corner.1 + dr) (corner.2 + dc)
  unfold finderAt
  simp only [List.mem_cons, List.not_mem_nil, or_false] at h
  obtain rfl | rfl | rfl := h
  · rw [finderColor_add 0 0 hr hc]; rfl
  · rw [eq_none_of_isSome_eq h00 (by simp only; omega), finderColor_add 0 (s - 7) hr hc]; rfl
  · rw [eq_none_of_isSome_eq h00 (by simp only; omega), eq_none_of_isSome_eq h07 (by simp only; omega),
      finderColor_add (s - 7) 0 hr hc]; rfl

theorem timingAt_row {s x : Nat} (h8 : 8 ≤ x) (hx : x + 9 ≤ s) : timingAt s 6 x = some (x % 2 == 0) :=
  if_pos ⟨rfl, h8, hx⟩

theorem timingAt_column {s x : Nat} (h8 : 8 ≤ x) (hx : x + 9 ≤ s) : timingAt s x 6 = some (x % 2 == 0) := by
  rw [timingAt, if_neg (by omega), if_pos ⟨rfl, h8, hx⟩]

theorem functionAt_of_finderAt {v r c : Nat} {color : Bool} (h : finderAt (side v) r c = some color) :
    functionAt v r c = some color := by
  simp [functionAt, h]

theorem functionAt_of_separator {v : Nat} (hv : legalVersion v = true) {r c : Nat}
    (h : (r = 7 ∧ c ≤ 7) ∨ (c = 7 ∧ r ≤ 6) ∨ (r = 7 ∧ side v - 8 ≤ c ∧ c < side v) ∨ (c = side v - 8 ∧ r ≤ 6) ∨
      (r = side v - 8 ∧ c ≤ 7) ∨ (c = 7 ∧ side v - 7 ≤ r ∧ r < side v)) : functionAt v r c = some false := by
  have hs := (side_le hv).1
  have hsep : separatorAt (side v) r c = some false := if_pos h
  simp [functionAt, eq_none_of_isSome_eq (finderAt_isSome hs r c) (by omega), hsep]

theorem functionAt_of_timingAt {v : Nat} (hv : legalVersion v = true) {r c : Nat} {color : Bool}
    (h : timingAt (side v) r c = some color) : functionAt v r c = some color := by
  have hs := (side_le hv).1
  have hat := timingAt_isSome (side v) r c
  rw [h, Option.isSome_some, eq_comm, decide_eq_true_eq] at hat
  simp [functionAt, eq_none_of_isSome_eq (finderAt_isSome hs r c) (by omega),
    eq_none_of_isSome_eq (separatorAt_isSome (side v) r c) (by omega), h]

theorem functionAt_of_alignAt {v : Nat} (hv : legalVersion v = true) {r c : Nat} {color : Bool}
    (h : alignAt (alignCoords v) r c = some color) : functionAt v r c = some color := by
  have hs := (side_le hv).1
  have hfree : ¬ ((r ≤ 8 ∧ c ≤ 8) ∨ (r ≤ 8 ∧ side v ≤ c + 11) ∨ (side v ≤ r + 11 ∧ c ≤ 8)) := fun hcorner => by
    rw [alignAt_corner hv hcorner] at h
    cases h
  cases ht : timingAt (side v) r c with
  | some color' => rw [functionAt_of_timingAt hv ht, timingAt_of_alignAt hv h ht]
  | none =>
    simp [functionAt, eq_none_of_isSome_eq (finderAt_isSome hs r c) (by omega),
      eq_none_of_isSome_eq (separatorAt_isSome (side v) r c) (by omega), ht, h]

/-- Near the three corners there is no alignment pattern, so that past finders, separators and timing patterns the dark
module alone is left. -/
theorem functionAt_corner {v : Nat} (hv : legalVersion v = true) {r c : Nat}
    (hcorner : (r ≤ 8 ∧ c ≤ 8) ∨ (r ≤ 8 ∧ side v ≤ c + 11) ∨ (side v ≤ r + 11 ∧ c ≤ 8))
    (hfinder : ¬ ((r ≤ 7 ∧ c ≤ 7) ∨ (r ≤ 7 ∧ side v ≤ c + 8) ∨ (side v ≤ r + 8 ∧ c ≤ 7))) (hr : r ≠ 6) (hc : c ≠ 6) :
    functionAt v r c = darkAt (side v) r c := by
  have hs := (side_le hv).1
  simp [functionAt, eq_none_of_isSome_eq (finderAt_isSome hs r c) (by omega),
    eq_none_of_isSome_eq (separatorAt_isSome (side v) r c) (by omega),
    eq_none_of_isSome_eq (timingAt_isSome (side v) r c) (by omega), alignAt_corner hv hcorner]

/-! ### The modules' bytes -/

theorem drawnModule_of_functionAt {v r c : Nat} {color : Bool} (h : functionAt v r c = some color) :
    drawnModule v r c = if color then 0x0B else 0x0A := by
  rw [drawnModule, h]
  cases color <;> rfl

/-- The 30 format modules are reserved (R196). -/
theorem drawnModule_format {v : Nat} (hv : legalVersion v = true) {r c : Nat}
    (h : (c = 8 ∧ (r ≤ 5 ∨ r = 7 ∨ r = 8 ∨ (side v - 7 ≤ r ∧ r < side v))) ∨
      (r = 8 ∧ (c ≤ 5 ∨ c = 7 ∨ (side v - 8 ≤ c ∧ c < side v)))) : drawnModule v r c = 0x04 := by
  have hs := (side_le hv).1
  have hf : functionAt v r c = none := by
    rw [functionAt_corner hv (by omega) (by omega) (by omega) (by omega)]
    exact eq_none_of_isSome_eq (darkAt_isSome (side v) r c) (by omega)
  rw [drawnModule, hf, isFormatPos_eq hs, decide_eq_true h]
  rfl

/-- The 36 modules of the version areas are reserved from version 7 on and free below it (R197). -/
theorem drawnModule_version {v : Nat} (hv : legalVersion v = true) {r c : Nat}
    (h : (r ≤ 5 ∧ side v - 11 ≤ c ∧ c ≤ side v - 9) ∨ (c ≤ 5 ∧ side v - 11 ≤ r ∧ r ≤ side v - 9)) :
    drawnModule v r c = if 7 ≤ v then 0x06 else 0x00 := by
  have hs := (side_le hv).1
  have hf : functionAt v r c = none := by
    rw [functionAt_corner hv (by omega) (by omega) (by omega) (by omega)]
    exact eq_none_of_isSome_eq (darkAt_isSome (side v) r c) (by omega)
  rw [drawnModule, hf, isFormatPos_eq hs, decide_eq_false (by omega), isVersionPos_eq, decide_eq_true h]
  by_cases h7 : 7 ≤ v
  · rw [decide_eq_true h7, if_pos h7]; rfl
  · rw [decide_eq_false h7, if_neg h7]; rfl

/-- Every module is one of five bytes (R56, R57). -/
theorem drawnModule_mem (v r c : Nat) : drawnModule v r c ∈ [0x00, 0x04, 0x06, 0x0A, 0x0B] := by
  cases h : functionAt v r c with
  | some color => rw [drawnModule_of_functionAt h]; cases color <;> decide
  | none =>
    unfold drawnModule
    rw [h]
    simp only
    split_ifs <;> decide

/-- Column 6 holds finders, separators and the timing pattern alone, so that it has no free module (R191 to R193). -/
theorem isFree_column_six {v : Nat} (hv : legalVersion v = true) {r : Nat} (hr : r < side v) :
    isFree (drawnModule v r 6) = false := by
  have hs := (side_le hv).1
  have hpattern : (finderAt (side v) r 6).isSome = true ∨ (separatorAt (side v) r 6).isSome = true ∨
      (timingAt (side v) r 6).isSome = true := by
    rw [finderAt_isSome hs, separatorAt_isSome, timingAt_isSome]
    simp only [decide_eq_true_eq, true_and]
    omega
  have hf : (functionAt v r 6).isSome = true := by
    simp only [functionAt, Option.isSome_or, Bool.or_eq_true]
    tauto
  rw [isFree_drawnModule, hf]
  rfl

/-- The free modules of the whole symbol are those of the zigzag (R198). -/
theorem sum_free_drawnModule {v : Nat} (hv : legalVersion v = true) :
    ((List.range (side v)).map fun r => (List.range (side v)).countP fun c => isFree (drawnModule v r c)).sum =
      8 * totalCw v + remBits v := by
  have hs : 7 ≤ side v ∧ side v % 2 = 1 := by unfold side; omega
  have hprod : ((List.range (side v)).map fun r =>
      (List.range (side v)).countP fun c => isFree (drawnModule v r c)).sum =
        (List.range (side v) ×ˢ List.range (side v)).countP fun p => isFree (drawnModule v p.1 p.2) := by
    change _ = ((List.range (side v)).flatMap fun r => (List.range (side v)).map (Prod.mk r)).countP _
    simp only [List.countP_flatMap, Function.comp_def, List.countP_map]
  rw [hprod, ← countLaw hv, ← List.countP_eq_length_filter, (zigzagPath_perm hs.1 hs.2).countP_eq, List.countP_filter]
  refine List.countP_congr fun p hp => ?_
  rw [List.mem_product, List.mem_range] at hp
  rw [Bool.and_eq_true, bne_iff_ne]
  refine ⟨fun h => ⟨h, fun h6 => ?_⟩, And.left⟩
  rw [h6, isFree_column_six hv hp.1] at h
  cases h

/-! ### The command -/

/-- The module (r, c) of the symbol after MX_FUNC (R190). -/
theorem moduleAt_drawn (m : Memory) {v : Nat} (hv : legalVersion v = true) {r c : Nat} (hr : r < side v)
    (hc : c < side v) : moduleAt (m.writeRange matBase (drawnMatrix v)) r c = some (drawnModule v r c) := by
  have hs := (side_le hv).2
  have h := read_drawn m v (r := r) (c := c) (by omega) (by omega)
  rwa [if_pos ⟨hr, hc⟩] at h

/-- A module that a function pattern draws (R191 to R195). -/
theorem moduleAt_function (m : Memory) {v : Nat} (hv : legalVersion v = true) {r c : Nat} {color : Bool}
    (h : functionAt v r c = some color) (hr : r < side v) (hc : c < side v) :
    moduleAt (m.writeRange matBase (drawnMatrix v)) r c = some (if color then 0x0B else 0x0A) := by
  rw [moduleAt_drawn m hv hr hc, drawnModule_of_functionAt h]

/-- MX_FUNC passes its check and draws. -/
theorem exec_mxFunc {s : State} {o : Latch} (hl : s.latch = some o) (hv : legalVersion o.v = true) :
    exec .mxFunc s = .next ((s.commit (s.res.setDrawn o.version).flagFunc
      (s.mem.writeRange matBase (drawnMatrix o.v))).complete 0x20 0x00) := by
  refine exec_of_outcome_ok (i := .mxFunc) ?_
  rw [outcome, operands_of_latch hl]
  exact doMxFunc_eq_ok.2 ⟨hv, rfl⟩

theorem mem_of_exec_mxFunc {s t : State} {o : Latch} (hl : s.latch = some o) (hv : legalVersion o.v = true)
    (h : exec .mxFunc s = .next t) : t.mem = s.mem.writeRange matBase (drawnMatrix o.v) := by
  rw [exec_mxFunc hl hv] at h
  cases h
  rfl

/-- Settles O44: off column 6 the free modules are the zigzag's, which `countLaw` counts, and column 6 has none. -/
theorem mxFuncLeavesRawFreeModules : Obligations.MxFuncLeavesRawFreeModules := by
  intro s o t hl hv h
  have hraw := (rawFormula_eq hv).1
  have hcount : ((List.range (side o.v)).map fun r => (List.range (side o.v)).countP fun c =>
      (moduleAt t.mem r c).any fun b => b &&& 0x0E == 0).sum = 8 * totalCw o.v + remBits o.v := by
    rw [← sum_free_drawnModule hv, mem_of_exec_mxFunc hl hv h]
    refine congrArg List.sum (List.map_congr_left fun r hr => List.countP_congr fun c hc => ?_)
    rw [moduleAt_drawn s.mem hv (List.mem_range.1 hr) (List.mem_range.1 hc), Option.any_some, isFree_eq]
  rw [hcount, ← hraw]
  exact ⟨by push_cast; rfl, rfl⟩

/-- Settles O42: each pattern's modules are function modules with the pattern's colours, whatever else is drawn. -/
theorem mxFuncDrawsThePatterns : Obligations.MxFuncDrawsThePatterns := by
  intro s o n hl hv hn
  obtain rfl : n = side o.v := hn
  have hs := (side_le hv).1
  have draws {r c : Nat} {color : Bool} (h : functionAt o.v r c = some color) := moduleAt_function s.mem hv h
  refine ⟨s.mem.writeRange matBase (drawnMatrix o.v), exec_mxFunc hl hv,
    sameOutside_writeRange _ _ (length_drawnMatrix _).le, fun corner hcorner dr hr dc hc => ?_, fun x hx => ?_,
    fun x hx => ?_, fun x h8 hx => ?_, ?_, ?_⟩
  · have h := functionAt_of_finderAt (finderAt_add hs hcorner hr hc)
    simp only [List.mem_cons, List.not_mem_nil, or_false] at hcorner
    simpa using draws h (by grind) (by grind)
  · refine ⟨?_, ?_, ?_⟩ <;> exact draws (functionAt_of_separator hv (by omega)) (by omega) (by omega)
  · refine ⟨?_, ?_, ?_⟩ <;> exact draws (functionAt_of_separator hv (by omega)) (by omega) (by omega)
  · constructor
    · simpa using draws (functionAt_of_timingAt hv (timingAt_row h8 (by omega))) (by omega) (by omega)
    · simpa using draws (functionAt_of_timingAt hv (timingAt_column h8 (by omega))) (by omega) (by omega)
  · rintro coords rfl i hi j hj h00 h0k hk0 dr hr dc hc
    have hp := List.getElem_mem hi
    have hq := List.getElem_mem hj
    have h := alignAt_pattern hv hp hq (excludedPair_getElem hv hi hj h00 h0k hk0) hr hc
    obtain ⟨-, -, hp7, -⟩ := alignCoord_spec hv _ hp
    obtain ⟨-, -, hq7, -⟩ := alignCoord_spec hv _ hq
    rw [List.getD_eq_getElem _ _ hi, List.getD_eq_getElem _ _ hj]
    simpa using draws (functionAt_of_alignAt hv h) (by omega) (by omega)
  · have hdark : darkAt (side o.v) (side o.v - 8) 8 = some true := if_pos ⟨rfl, rfl⟩
    have h := functionAt_corner hv (r := side o.v - 8) (c := 8) (by omega) (by omega) (by omega) (by omega)
    exact draws (h.trans hdark) (by omega) (by omega)

/-- Settles O43: the reserved modules hold no function pattern, and the bytes outside the symbol are cleared. -/
theorem mxFuncReservesTheInformationAreas : Obligations.MxFuncReservesTheInformationAreas := by
  intro s o n t hl hv hn h
  obtain rfl : n = side o.v := hn
  obtain ⟨hs, hs'⟩ := side_le hv
  rw [mem_of_exec_mxFunc hl hv h]
  have format {r c : Nat} (hf) (hr : r < side o.v) (hc : c < side o.v) :=
    (moduleAt_drawn s.mem hv hr hc).trans (congrArg some (drawnModule_format hv hf))
  have version {r c : Nat} (hf) (hr : r < side o.v) (hc : c < side o.v) :=
    (moduleAt_drawn s.mem hv hr hc).trans (congrArg some (drawnModule_version hv hf))
  refine ⟨fun i hi => format (by omega) (by omega) (by omega), format (by omega) (by omega) (by omega),
    format (by omega) (by omega) (by omega), format (by omega) (by omega) (by omega),
    fun i h9 hi => format (by omega) (by omega) (by omega), fun i hi => format (by omega) (by omega) (by omega),
    fun i h8 hi => format (by omega) (by omega) (by omega),
    fun i hi => ⟨version (by omega) (by omega) (by omega), version (by omega) (by omega) (by omega)⟩,
    fun r hr c hc => ⟨_, drawnModule_mem o.v r c, moduleAt_drawn s.mem hv hr hc⟩, fun r hr c hc hout => ?_⟩
  have hclear := read_drawn s.mem o.v hr hc
  rwa [if_neg (by omega)] at hclear

end Sys2Proof.Machine
end

section
/-! PROOFS. The colours of a candidate (R220, R222): X ⊕ mask_k at every module, with the information modules drawn over
it when the build says so. -/

namespace Sys2Proof.Machine

open Sys2Proof Sys2Proof.Safety

/-! ### Masked modules (R220) -/

/-- The two readings of a maskable module agree: by its kind, and on the bits of R56. -/
theorem isMaskable_eq_maskable : ∀ b : Byte, isMaskable b = maskable b := by decide +kernel

/-- Inverting a colour flips bit 0, and in a module byte nothing else (R56, R220). -/
theorem invertColor_eq_xor : ∀ b : Byte, b.toNat < 16 → invertColor b = b ^^^ 0x01 := by decide +kernel

theorem colorOf_invertColor : ∀ b : Byte, colorOf (invertColor b) = (b ^^^ 0x01).getLsbD 0 := by decide +kernel

theorem maskedColor_eq (k r c : Nat) (b : Byte) : maskedColor k r c b = (maskedModule k r c b).getLsbD 0 := by
  rw [maskedColor, maskByte, maskedModule, inverts, isMaskable_eq_maskable]
  split
  · exact colorOf_invertColor b
  · rfl

/-! ### The candidate -/

theorem square_candidate (p : Params) {v : Nat} (e : EccLevel) (k : Nat) {g : Grid} {n : Nat} (hl : g.length = n)
    (hrow : ∀ row ∈ g, row.length = n) : Square n (candidate p v e k g) := by
  refine ⟨by simp [candidate, hl], fun row hr => ?_⟩
  obtain ⟨q, hq, rfl⟩ := List.mem_map.1 hr
  simpa using hrow _ (List.fst_mem_of_mem_zipIdx hq)

theorem colourAt_candidate (p : Params) (v : Nat) (e : EccLevel) (k : Nat) {g : Grid} {n r c : Nat} (hl : g.length = n)
    (hrow : ∀ row ∈ g, row.length = n) (hr : r < n) (hc : c < n) :
    colourAt (candidate p v e k g) r c = candidateColor (overlay p v e k) k r c (gridAt g r c) := by
  have hr' : r < g.length := by omega
  have hc' : c < g[r].length := by rw [hrow _ (List.getElem_mem hr')]; exact hc
  simp [colourAt, candidate, gridAt, List.getD_eq_getElem?_getD, hr', hc']

/-! ### The modules drawn over it -/

section
variable {ps : List ((Nat × Nat) × Nat)} (f : Nat → Bool)

/-- Where no position has two numbers, a position is found with the value of its number. -/
theorem lookup_numbered (hfun : ∀ p ∈ ps, ∀ q ∈ ps, p.1 = q.1 → p.2 = q.2) {p : (Nat × Nat) × Nat} (hp : p ∈ ps) :
    (ps.map fun q => (q.1, f q.2)).lookup p.1 = some (f p.2) := by
  cases h : (ps.map fun q => (q.1, f q.2)).lookup p.1 with
  | none => simpa using List.lookup_eq_none_iff.1 h _ (List.mem_map_of_mem hp)
  | some b =>
    obtain ⟨l₁, l₂, hl, -⟩ := List.lookup_eq_some_iff.1 h
    obtain ⟨q, hq, hqb⟩ := List.mem_map.1 (hl ▸ List.mem_append_right l₁ List.mem_cons_self)
    obtain ⟨h1, rfl⟩ := Prod.mk.inj hqb
    rw [hfun q hq p hp h1]

theorem lookup_numbered_eq_none {a : Nat × Nat} (ha : ∀ p ∈ ps, p.1 ≠ a) :
    (ps.map fun q => (q.1, f q.2)).lookup a = none := by
  refine List.lookup_eq_none_iff.2 fun q hq => ?_
  obtain ⟨p, hp, rfl⟩ := List.mem_map.1 hq
  exact bne_iff_ne.2 (ha p hp).symm

end

/-- Every format module stands in row 8 or column 8 (R196). -/
theorem fmtPositions_eight {s : Nat} {p : (Nat × Nat) × Nat} (hp : p ∈ fmtPositions s) : p.1.1 = 8 ∨ p.1.2 = 8 := by
  obtain ⟨-, h | h⟩ := mem_fmtPositions.1 hp <;> rw [h]
  · unfold fmtPosA; split_ifs <;> simp
  · unfold fmtPosB; split_ifs <;> simp

/-- No version module does, from version 7 on (R197). -/
theorem verPositions_ne_eight {s : Nat} (hs : 45 ≤ s) {p : (Nat × Nat) × Nat} (hp : p ∈ verPositions s) :
    p.1.1 ≠ 8 ∧ p.1.2 ≠ 8 := by
  obtain ⟨hi, h | h⟩ := mem_verPositions.1 hp <;> rw [h] <;> simp only [verPosA, verPosB] <;> omega

section
variable {p : Params} {v : Nat} {e : EccLevel} {k i : Nat} {a : Nat × Nat}

/-- A format module is drawn with its bit of FORMATWORD (R196, R222). -/
theorem lookup_drawnInfo_format (hv : legalVersion v = true) (hi : i < 15)
    (ha : a = fmtPosA i ∨ a = fmtPosB (side v) i) :
    (drawnInfo p v e k).lookup a = some ((formatWord e k).getLsbD i) := by
  rw [drawnInfo, List.lookup_append, lookup_numbered (p := (a, i)) (formatWord e k).getLsbD
    (fmtPositions_functional (side_le hv).1) (mem_fmtPositions.2 ⟨hi, ha⟩)]
  rfl

/-- A version module is drawn with its bit of VERSIONWORD from version 7 on (R197, R222). -/
theorem lookup_drawnInfo_version (hv : legalVersion v = true) (h7 : 7 ≤ v) (hi : i < 18)
    (ha : a = verPosA (side v) i ∨ a = verPosB (side v) i) :
    (drawnInfo p v e k).lookup a = some ((versionWord p v).getLsbD i) := by
  have hp : (a, i) ∈ verPositions (side v) := mem_verPositions.2 ⟨hi, ha⟩
  have h8 := verPositions_ne_eight (by unfold side; omega) hp
  have hfmt : ∀ q ∈ fmtPositions (side v), q.1 ≠ a := by
    rintro q hq rfl
    exact (fmtPositions_eight hq).elim h8.1 h8.2
  rw [drawnInfo, List.lookup_append, lookup_numbered_eq_none _ hfmt, if_pos h7,
    lookup_numbered (p := (a, i)) (versionWord p v).getLsbD (verPositions_functional (side_le hv).1) hp]
  rfl

/-- No other module is drawn (R222). -/
theorem lookup_drawnInfo_eq_none (hfmt : ∀ i < 15, a ≠ fmtPosA i ∧ a ≠ fmtPosB (side v) i)
    (hver : 7 ≤ v → ∀ i < 18, a ≠ verPosA (side v) i ∧ a ≠ verPosB (side v) i) : (drawnInfo p v e k).lookup a = none := by
  have hf : ∀ q ∈ fmtPositions (side v), q.1 ≠ a := by
    rintro q hq rfl
    obtain ⟨hi, h⟩ := mem_fmtPositions.1 hq
    exact h.elim (hfmt _ hi).1 (hfmt _ hi).2
  rw [drawnInfo, List.lookup_append, lookup_numbered_eq_none _ hf]
  split
  · next h7 =>
    refine lookup_numbered_eq_none _ ?_
    rintro q hq rfl
    obtain ⟨hi, h⟩ := mem_verPositions.1 hq
    exact h.elim (hver h7 _ hi).1 (hver h7 _ hi).2
  · rfl

end

/-- Settles O47: a module is drawn over with what its position is found with, and masked where it is not found. -/
theorem candidateColours : Obligations.CandidateColours := by
  intro p v e k g hv _ hl hrow
  refine ⟨square_candidate p e k hl hrow, fun r hr c hc => ?_⟩
  rw [colourAt_candidate p v e k hl hrow hr hc, candidateColor, ← maskedColor_eq]
  refine ⟨fun hp => ?_, fun hp => ?_⟩ <;> rw [overlay, hp]
  · rfl
  refine ⟨fun i hi ha => ?_, fun h7 i hi ha => ?_, fun hfmt hver => ?_⟩
  · rw [lookup_drawnInfo_format hv hi ha]
  · rw [lookup_drawnInfo_version hv h7 hi ha]
  · rw [lookup_drawnInfo_eq_none hfmt hver]

end Sys2Proof.Machine
end

section
/-! PROOFS. Rules N1 and N2 (R223, R224): a candidate as a table of colours and its lines as functions of the index, the
maximal runs of a line by where they start, and the uniform blocks by their first module. -/

namespace Sys2Proof.Machine

open Sys2Proof Sys2Proof.Safety

/-! ### A candidate as a table -/

theorem sum_map_range (n : Nat) (f : Nat → Nat) : ((List.range n).map f).sum = ∑ i ∈ Finset.range n, f i := rfl

section
variable {n : Nat} {x : Colors}

theorem eq_table (h : Square n x) : x = (List.range n).map fun r => (List.range n).map (colourAt x r) := by
  obtain ⟨hl, hrow⟩ := h
  refine List.ext_getElem (by simp [hl]) fun r hr _ => List.ext_getElem ?_ fun c hc _ => ?_
  · simp [hrow _ (List.getElem_mem hr)]
  · simp [colourAt, List.getD_eq_getElem?_getD, hr, hc]

theorem columns_eq (h : Square n x) :
    columns n x = (List.range n).map fun c => (List.range n).map fun r => colourAt x r c := by
  refine List.map_congr_left fun c _ => List.ext_getElem (by simp [h.1]) fun r hr _ => ?_
  simp only [List.length_map] at hr
  simp [colourAt, List.getD_eq_getElem?_getD, hr]

/-- The lines are the rows, then the columns (44_mask.md section 2). -/
theorem lines_eq (h : Square n x) :
    lines n x = (List.range (2 * n)).map fun j => (List.range n).map (lineAt n x j) := by
  rw [lines, columns_eq h, Nat.two_mul, List.range_add, List.map_append, List.map_map]
  refine congrArg₂ (· ++ ·)
    ((eq_table h).trans (List.map_congr_left fun r hr => List.map_congr_left fun c _ => ?_))
    (List.map_congr_left fun c _ => List.map_congr_left fun r _ => ?_)
  · simp [lineAt, List.mem_range.1 hr]
  · simp [lineAt]

end

/-! ### Runs (R223) -/

section
variable (f : Nat → Bool)

/-- How many of the m modules of a line from q on have colour c before the first that has not. -/
def leadRun (c : Bool) : Nat → Nat → Nat
  | _, 0 => 0
  | q, m + 1 => if f q = c then leadRun c (q + 1) m + 1 else 0

theorem eq_leadRun_iff {c : Bool} {q m len : Nat} : len = leadRun f c q m ↔
    len ≤ m ∧ (∀ i < len, f (q + i) = c) ∧ (len = m ∨ f (q + len) ≠ c) := by
  induction m generalizing q len with
  | zero => simp +contextual [leadRun]
  | succ m ih =>
    rw [leadRun]
    cases len with
    | zero => split <;> simp_all
    | succ len =>
      have hshift (i : Nat) : q + 1 + i = q + (i + 1) := by omega
      split
      · next h =>
        rw [Nat.add_right_cancel_iff, ih, Nat.add_le_add_iff_right, Nat.add_right_cancel_iff, Nat.forall_lt_succ_left]
        simp [h, hshift]
      · next h => simpa using fun _ hall => absurd (hall 0 (by omega)) h

/-- What the run costs that starts at module q of a line of n modules, if one does (R223). -/
def startPenalty (n q : Nat) : Nat := if q = 0 ∨ f (q - 1) ≠ f q then runPenalty (leadRun f (f q) q (n - q)) else 0

/-- The rest of a line after module q: the run under way goes on, and every later run has its start. -/
theorem sum_runsFrom {n q m : Nat} (hn : q + 1 + m = n) (len : Nat) :
    ((runsFrom (f q) len ((List.range' (q + 1) m).map f)).map runPenalty).sum =
      runPenalty (len + leadRun f (f q) (q + 1) m) + ((List.range' (q + 1) m).map (startPenalty f n)).sum := by
  induction m generalizing q len with
  | zero => simp [runsFrom, leadRun]
  | succ m ih =>
    have hlast : n - (q + 1) = m + 1 := by omega
    rw [List.range'_succ, List.map_cons, runsFrom, leadRun, List.map_cons, List.sum_cons, startPenalty, hlast, leadRun]
    split
    · next h =>
      rw [← h, ih (by omega)]
      simp [h, Nat.add_comm 1, Nat.add_assoc]
    · next h =>
      rw [List.map_cons, List.sum_cons, ih (by omega)]
      simp [Ne.symm h, Nat.add_comm 1]

/-- Rule N1 on a line charges every start of a run (R223). -/
theorem n1Line_map_range (n : Nat) :
    n1Line ((List.range n).map f) = ((List.range n).map (startPenalty f n)).sum := by
  rw [n1Line, List.range_eq_range']
  cases n with
  | zero => rfl
  | succ m =>
    rw [List.range'_succ, List.map_cons, runLengths, sum_runsFrom f (Nat.add_comm _ _), List.map_cons, List.sum_cons]
    simp [startPenalty, leadRun, Nat.add_comm 1]

/-- A maximal run is a start with the length that the line gives it (R223). -/
theorem maximalRun_iff {n p len : Nat} (hp : p < n) :
    maximalRun n f p len = true ↔ (p = 0 ∨ f (p - 1) ≠ f p) ∧ len = leadRun f (f p) p (n - p) := by
  have hend : p + len = n ↔ len = n - p := by omega
  have hle : p + len ≤ n ↔ len ≤ n - p := by omega
  have hpos : len = n - p ∨ f (p + len) ≠ f p → 0 < len := by
    rintro (h | h)
    · omega
    · exact Nat.pos_of_ne_zero fun h0 => h (by rw [h0, Nat.add_zero])
  rw [eq_leadRun_iff, maximalRun]
  simp only [Bool.and_eq_true, Bool.or_eq_true, decide_eq_true_eq, List.all_eq_true, List.mem_range, beq_iff_eq,
    bne_iff_ne, hend, hle]
  grind

/-- The maximal runs of length 5 or more that start at p cost what its start does (R223). -/
theorem sum_maximalRun_eq_startPenalty {n p : Nat} (hp : p < n) :
    ((List.range (n + 1)).map fun len => if maximalRun n f p len && 5 ≤ len then 3 + (len - 5) else 0).sum =
      startPenalty f n p := by
  have hle : leadRun f (f p) p (n - p) ≤ n - p := ((eq_leadRun_iff f).1 rfl).1
  have hmem : leadRun f (f p) p (n - p) ∈ Finset.range (n + 1) := Finset.mem_range.2 (by omega)
  have hterm (len : Nat) : (if maximalRun n f p len && 5 ≤ len then 3 + (len - 5) else 0) =
      if len = leadRun f (f p) p (n - p) then startPenalty f n p else 0 := by
    rw [startPenalty, runPenalty]
    have := maximalRun_iff f hp (len := len)
    grind
  rw [sum_map_range, Finset.sum_congr rfl fun len _ => hterm len, Finset.sum_ite_eq', if_pos hmem]

end

/-- Rule N1 is the score of all maximal runs (R223). -/
theorem n1_eq_runScore {n : Nat} {x : Colors} (h : Square n x) : n1 n x = runScore n x := by
  rw [n1, runScore, lines_eq h, List.map_map]
  refine congrArg _ (List.map_congr_left fun j _ => ?_)
  rw [Function.comp_apply, n1Line_map_range]
  exact congrArg _ (List.map_congr_left fun p hp => (sum_maximalRun_eq_startPenalty _ (List.mem_range.1 hp)).symm)

/-! ### Blocks (R224) -/

/-- Module c starts a uniform 2 × 2 block of the two rows (R224). -/
def blockAt (a b : Nat → Bool) (c : Nat) : Bool := a c == a (c + 1) && a c == b c && a c == b (c + 1)

theorem blocksInRows_map_range' (a b : Nat → Bool) (c m : Nat) :
    blocksInRows ((List.range' c (m + 1)).map a) ((List.range' c (m + 1)).map b) =
      (List.range' c m).countP (blockAt a b) := by
  induction m generalizing c with
  | zero => rfl
  | succ m ih =>
    have h := ih (c + 1)
    rw [List.range'_succ, List.map_cons, List.map_cons] at h
    rw [List.range'_succ, List.range'_succ, List.range'_succ, List.countP_cons]
    simp only [List.map_cons, blocksInRows, h]
    simp [blockAt, and_assoc, Nat.add_comm]

theorem uniformBlocks_map_range' (row : Nat → List Bool) (r m : Nat) :
    uniformBlocks ((List.range' r (m + 1)).map row) =
      ((List.range' r m).map fun q => blocksInRows (row q) (row (q + 1))).sum := by
  induction m generalizing r with
  | zero => rfl
  | succ m ih =>
    have h := ih (r + 1)
    rw [List.range'_succ, List.map_cons] at h
    rw [List.range'_succ, List.range'_succ, List.range'_succ]
    simp only [List.map_cons, uniformBlocks, h, List.sum_cons]

/-- Rule N2 is 3 for every block (R224). -/
theorem n2_eq_blockScore {n : Nat} {x : Colors} (hn : 1 ≤ n) (h : Square n x) : n2 x = blockScore n x := by
  obtain ⟨m, rfl⟩ := Nat.exists_eq_add_of_le' hn
  rw [n2, blockScore, Nat.add_sub_cancel]
  conv_lhs => rw [eq_table h]
  simp only [List.range_eq_range', uniformBlocks_map_range', blocksInRows_map_range']
  rfl

/-- Settles O48: both rules count by the starts of what they charge. -/
theorem runAndBlockPenalties : Obligations.RunAndBlockPenalties :=
  ⟨fun _ _ hn h => ⟨n1_eq_runScore h, n2_eq_blockScore hn h⟩, by decide⟩

end Sys2Proof.Machine
end

section
/-! PROOFS. Rules N3 and N4 (R225, R226): a line with its outside as a function of the index, the cores in it and their
margins, and the whole 5 % steps. -/

namespace Sys2Proof.Machine

open Sys2Proof Sys2Proof.Safety

/-! ### A line and its outside (R225) -/

section
variable (p : Params) (n : Nat) (f : Nat → Bool)

/-- Module i of a line that four outside values extend on either side (R225). -/
def paddedCell (i : Nat) : Option Bool := cellAt p n f ((i : Int) - 4)

variable {p n}

theorem paddedCell_inside {i : Nat} (hi : i < n) : paddedCell p n f (i + 4) = some (f i) := by
  have h : ((i + 4 : Nat) : Int) - 4 = i := by omega
  rw [paddedCell, h, cellAt, if_pos (by omega), Int.toNat_natCast]

theorem paddedCell_outside {i : Nat} (hi : i < 4 ∨ n + 4 ≤ i) : paddedCell p n f i = outsideValue p := by
  rw [paddedCell, cellAt, if_neg (by omega), outsideValue]
  cases p.rule3Outside <;> rfl

theorem outsideValue_ne_dark : outsideValue p ≠ some true := by
  unfold outsideValue
  split <;> simp

theorem padded_eq_map_range : List.replicate 4 (outsideValue p) ++ ((List.range n).map f).map some ++
    List.replicate 4 (outsideValue p) = (List.range (n + 8)).map (paddedCell p n f) := by
  have hlen : n + 8 = 4 + n + 4 := by omega
  have hrep : List.replicate 4 (outsideValue p) = (List.range 4).map fun _ => outsideValue p := rfl
  rw [hlen, List.range_add, List.range_add, List.map_append, List.map_append, List.map_map, List.map_map, List.map_map,
    hrep]
  refine congrArg₂ (· ++ ·) (congrArg₂ (· ++ ·) (List.map_congr_left fun i hi => ?_)
    (List.map_congr_left fun i hi => ?_)) (List.map_congr_left fun i hi => ?_)
  · exact (paddedCell_outside f (.inl (List.mem_range.1 hi))).symm
  · rw [Function.comp_apply, Function.comp_apply, Nat.add_comm 4, paddedCell_inside f (List.mem_range.1 hi)]
  · exact (paddedCell_outside f (.inr (by simp only; omega))).symm

/-! ### Cores and margins (R225) -/

/-- The counts of a line, position by position. -/
theorem coreCounts_eq_sum (l : List (Option Bool)) : coreCounts p l = ∑ i ∈ Finset.range l.length,
    coreCount p ((l.drop i).take 4) ((l.drop (i + 4)).take 7) ((l.drop (i + 11)).take 4) := by
  induction l with
  | nil => rfl
  | cons x l ih =>
    rw [coreCounts, ih, List.length_cons, Finset.sum_range_succ', Nat.add_comm]
    rfl

theorem take_drop_map_range {α : Type} (h : Nat → α) {i k m : Nat} (hik : i + k ≤ m) :
    (((List.range m).map h).drop i).take k = (List.range' i k).map h := by
  rw [List.range_eq_range', ← List.map_drop, ← List.map_take, List.drop_range',
    List.take_range'_of_length_ge (by omega)]
  simp

theorem map_paddedCell_eq_core3 {q : Nat} (hq : q + 6 < n) :
    (List.range' (q + 4) 7).map (paddedCell p n f) = core3 ↔ coreAt f q = true := by
  have hshift : List.range' (q + 4) 7 = (List.range 7).map fun i => q + i + 4 := by
    simp [List.range'_eq_map_range, Nat.add_right_comm]
  have hcell : (List.range' (q + 4) 7).map (paddedCell p n f) = (List.range 7).map fun i => some (f (q + i)) := by
    rw [hshift, List.map_map]
    exact List.map_congr_left fun i hi => paddedCell_inside f (by have := List.mem_range.1 hi; omega)
  rw [hcell]
  simp [List.range_succ, core3, coreAt, and_assoc]

theorem map_paddedCell_eq_margin3 (i : Nat) :
    (List.range' i 4).map (paddedCell p n f) = margin3 ↔ allLight p n f ((i : Int) - 4) = true := by
  have hcell (j : Nat) : paddedCell p n f (i + j) = cellAt p n f ((i : Int) - 4 + j) := by
    rw [paddedCell]
    congr 1
    omega
  have hfirst : paddedCell p n f i = cellAt p n f ((i : Int) - 4) := rfl
  simp [List.range'_eq_map_range, List.range_succ, margin3, allLight, hcell, hfirst]

/-- Position q of a line counts as its margins do where a core stands, and nothing elsewhere (R225). -/
theorem coreCount_padded {q : Nat} (hq : q + 6 < n) :
    coreCount p ((List.range' q 4).map (paddedCell p n f)) ((List.range' (q + 4) 7).map (paddedCell p n f))
      ((List.range' (q + 11) 4).map (paddedCell p n f)) = if coreAt f q then marginCount p n f q else 0 := by
  have hafter : ((q + 11 : Nat) : Int) - 4 = q + 7 := by omega
  simp only [coreCount, marginCount, map_paddedCell_eq_core3 f hq, map_paddedCell_eq_margin3, hafter]
  cases p.rule3Mode <;> simp

/-- A position whose core would leave the line counts nothing: a core begins and ends Dark (R225). -/
theorem coreCount_eq_zero_of_outside {q : Nat} (hq : n ≤ q + 6) (before after : List (Option Bool)) :
    coreCount p before ((((List.range (n + 8)).map (paddedCell p n f)).drop (q + 4)).take 7) after = 0 := by
  refine if_neg fun hcore => ?_
  have hlast := congrArg (·[6]?) hcore
  simp only [List.getElem?_take_of_lt (show 6 < 7 by decide), List.getElem?_drop, List.getElem?_map] at hlast
  have hdark : (some (some true) : Option (Option Bool)) = core3[6]? := rfl
  rw [← hdark, Option.map_eq_some_iff] at hlast
  obtain ⟨i, hi, hdark⟩ := hlast
  obtain ⟨hlt, rfl⟩ := List.getElem?_eq_some_iff.1 hi
  rw [List.getElem_range, paddedCell_outside f (.inr (by omega))] at hdark
  exact outsideValue_ne_dark hdark

/-- Rule N3 on a line counts the margins of every core (R225). -/
theorem n3Line_map_range : n3Line p ((List.range n).map f) =
    ((List.range (n - 6)).map fun q => if coreAt f q then marginCount p n f q else 0).sum := by
  have hsub : Finset.range (n - 6) ⊆ Finset.range (n + 8) := Finset.range_subset_range.2 (by omega)
  rw [n3Line, padded_eq_map_range, coreCounts_eq_sum, List.length_map, List.length_range, sum_map_range,
    ← Finset.sum_subset hsub fun q _ hq => coreCount_eq_zero_of_outside f
      (by have := mt Finset.mem_range.2 hq; omega) _ _]
  refine Finset.sum_congr rfl fun q hq => ?_
  have hq := Finset.mem_range.1 hq
  rw [take_drop_map_range _ (by omega), take_drop_map_range _ (by omega), take_drop_map_range _ (by omega),
    coreCount_padded f (by omega)]

end

/-- Rule N3 is 40 for every margin that counts (R225). -/
theorem n3_eq_coreScore (p : Params) {n : Nat} {x : Colors} (h : Square n x) : n3 p n x = coreScore p n x := by
  rw [n3, coreScore, lines_eq h, List.map_map]
  exact congrArg (40 * List.sum ·) (List.map_congr_left fun j _ => n3Line_map_range _)

/-! ### The share of Dark modules (R226) -/

theorem darkCount_eq_darkModules {n : Nat} {x : Colors} (h : Square n x) : darkCount x = darkModules n x := by
  rw [darkCount, darkModules]
  conv_lhs => rw [eq_table h]
  rw [List.map_map]
  refine congrArg _ (List.map_congr_left fun r _ => ?_)
  rw [Function.comp_apply, List.countP_map]
  rfl

/-- Rule N4 is 10 for every step (R226). -/
theorem n4_eq_balanceScore (p : Params) {n : Nat} {x : Colors} (h : Square n x) : n4 p n x = balanceScore p n x := by
  rw [n4, balanceScore, fiveSteps, darkCount_eq_darkModules h, distance_eq_natAbs]
  push_cast
  cases p.rule4Rounding <;> rfl

/-! ### The rules' vectors (R225, R226) -/

theorem n3_vectors : ∀ mode weight, (mode = .window11 ∧ weight = 80) ∨ (mode = .coreEitherSide ∧ weight = 40) →
    ∀ p, p = { Params.default with rule3Mode := mode } →
    40 * n3Line p ([1, 0, 1, 1, 1, 0, 1, 0, 0, 0, 0].map (· == 1)) = weight ∧
    40 * n3Line p ([0, 0, 0, 0, 1, 0, 1, 1, 1, 0, 1, 0, 0, 0].map (· == 1)) = weight ∧
    40 * n3Line p ([1, 0, 1, 1, 1, 0, 1, 0, 0, 0, 0, 1, 0, 1, 1, 1, 0, 1, 0, 0, 0, 0].map (· == 1)) = 2 * weight := by
  rintro mode weight (⟨rfl, rfl⟩ | ⟨rfl, rfl⟩) p rfl <;> decide

/-- Settles O49: a line and its outside are one function of the index, in which a core fits at n − 6 positions. -/
theorem coreAndBalancePenalties : Obligations.CoreAndBalancePenalties := by
  refine ⟨fun p n x _ h => ⟨n3_eq_coreScore p h, n4_eq_balanceScore p h⟩, n3_vectors, ?_⟩
  rintro x rfl
  constructor <;> decide

end Sys2Proof.Machine
end

section
/-! PROOFS. The bounds of the penalties (R229), from what each line, row and position can cost at most. -/

namespace Sys2Proof.Machine

open Sys2Proof Sys2Proof.Safety

/-- A sum of n terms, each at most b. -/
theorem sum_map_range_le {n b : Nat} {f : Nat → Nat} (h : ∀ i, f i ≤ b) : ((List.range n).map f).sum ≤ n * b := by
  have hsum := List.sum_le_card_nsmul ((List.range n).map f) b (by simpa using fun i _ => h i)
  simpa using hsum

/-- Runs of modules cost two less than they are long, so a line costs no more than one run of its length (R223). -/
theorem sum_runsFrom_le (c : Bool) {len : Nat} (hlen : 1 ≤ len) (l : List Bool) :
    ((runsFrom c len l).map runPenalty).sum ≤ len + l.length - 2 := by
  have hrun (k : Nat) : runPenalty k ≤ k - 2 := by unfold runPenalty; split <;> omega
  induction l generalizing c len with
  | nil => simpa [runsFrom] using hrun len
  | cons b l ih =>
    rw [runsFrom, List.length_cons]
    split
    · exact (ih c (Nat.le_add_left 1 len)).trans (by omega)
    · rw [List.map_cons, List.sum_cons]
      have hrest := ih b le_rfl
      have hfirst := hrun len
      omega

theorem n1Line_le (l : List Bool) : n1Line l ≤ l.length - 2 := by
  cases l with
  | nil => exact Nat.zero_le _
  | cons b l => simpa [n1Line, runLengths, Nat.add_comm] using sum_runsFrom_le b le_rfl l

/-- A core has two margins (R225). -/
theorem marginCount_le (p : Params) (n : Nat) (f : Nat → Bool) (q : Nat) : marginCount p n f q ≤ 2 := by
  unfold marginCount
  split_ifs <;> omega

section
variable (p : Params) {n : Nat} {x : Colors} (h : Square n x)
include h

theorem n1_le : n1 n x ≤ 2 * n * (n - 2) := by
  rw [n1, lines_eq h, List.map_map]
  exact sum_map_range_le fun j => (n1Line_le _).trans (by simp)

theorem n2_le (hn : 1 ≤ n) : n2 x ≤ 3 * (n - 1) ^ 2 := by
  rw [n2_eq_blockScore hn h, blockScore, Nat.pow_two]
  exact Nat.mul_le_mul_left 3 (sum_map_range_le fun r => List.countP_le_length.trans (by simp))

theorem n3_le : n3 p n x ≤ 40 * (2 * n) * (2 * (n - 6)) := by
  rw [n3_eq_coreScore p h, coreScore, Nat.mul_assoc 40, Nat.mul_comm 2 (n - 6)]
  refine Nat.mul_le_mul_left 40 (sum_map_range_le fun j => sum_map_range_le fun q => ?_)
  split
  · exact marginCount_le p n _ q
  · exact Nat.zero_le _

theorem darkCount_le : darkCount x ≤ n * n := by
  rw [darkCount_eq_darkModules h]
  exact sum_map_range_le fun r => List.countP_le_length.trans (by simp)

/-- The share of Dark modules is at most ten 5 % steps away from one half (R226). -/
theorem n4_le (hn : 1 ≤ n) : n4 p n x ≤ 100 := by
  have ht : 0 < n * n := Nat.mul_pos hn hn
  have hd : distance (20 * darkCount x) (10 * (n * n)) ≤ 10 * (n * n) := by
    have hdark := darkCount_le h
    unfold distance
    split <;> omega
  rw [n4, fiveSteps]
  cases p.rule4Rounding with
  | floor =>
    have hdiv := Nat.div_le_of_le_mul (hd.trans_eq (Nat.mul_comm _ _))
    simp only
    omega
  | ceilMinusOne =>
    have hdiv : (distance (20 * darkCount x) (10 * (n * n)) + n * n - 1) / (n * n) ≤ 11 :=
      Nat.div_le_of_le_mul (by omega)
    simp only
    omega

/-- For the side of a legal version the bounds add up to less than 2^32 (R229). -/
theorem penalties_sum_lt (hn : 1 ≤ n) (hn' : n ≤ 177) : n1 n x + n2 x + n3 p n x + n4 p n x < 2 ^ 32 := by
  have h1 : n1 n x ≤ 2 * 177 * 175 := (n1_le h).trans (by gcongr; omega)
  have h2 : n2 x ≤ 3 * 176 ^ 2 := (n2_le h hn).trans (by gcongr; omega)
  have h3 : n3 p n x ≤ 40 * (2 * 177) * (2 * 171) := (n3_le p h).trans (by gcongr; omega)
  have h4 := n4_le p h hn
  omega

end

/-- Settles O50: the bounds hold for every square candidate, and a symbol's side is at most 177. -/
theorem penaltiesNeverWrap : Obligations.PenaltiesNeverWrap := by
  intro p v x hv h
  obtain ⟨hlo, hhi⟩ := side_le hv
  have hn : 1 ≤ side v := by omega
  exact ⟨n1_le h, n2_le h hn, n3_le p h, n4_le p h hn, penalties_sum_lt p h hn hhi⟩

end Sys2Proof.Machine
end

section
/-! PROOFS. MASK_EVAL and MASK_SEARCH (R227, R228, R230, R231): the registers of a mask's penalties, and the smallest mask
of the least total. -/

namespace Sys2Proof.Machine

open Sys2Proof Sys2Proof.Safety

/-! ### The registers of one mask (R43) -/

section
variable (p : Params) (v : Nat) (e : EccLevel) (k : Nat) (g : Grid)

theorem penRuleWords_penalties {x : Colors} (hx : x = candidate p v e k g) :
    penRuleWords (penalties p v e k g) = #v[BitVec.ofNat 32 (n1 (side v) x), BitVec.ofNat 32 (n2 x),
      BitVec.ofNat 32 (n3 p (side v) x), BitVec.ofNat 32 (n4 p (side v) x)] := by
  subst hx
  rfl

theorem sum_penalties {x : Colors} (hx : x = candidate p v e k g) :
    (penalties p v e k g).sum = n1 (side v) x + n2 x + n3 p (side v) x + n4 p (side v) x := by
  subst hx
  simp [penalties, Nat.add_assoc]

end

/-! ### The commands -/

section
variable {s : State} {o : Latch} {g : Grid} (hl : s.latch = some o) (hv : legalVersion o.v = true)
  (hf : s.res.funcDone = true) (hm : s.res.mxVersion = o.version) (hg : readSymbol s.mem (side o.v) = some g)
include hl hv hf hm hg

/-- MASK_EVAL passes its checks and writes the registers of its mask. -/
theorem exec_maskEval {k : Byte} (hk : k.toNat ≤ 7) : exec (.maskEval k) s =
    .next ((s.setRes (s.res.setPen k.toNat (penalties s.params o.v o.e k.toNat g))).complete 0x28 0x00) := by
  refine exec_of_outcome_ok (i := .maskEval k) ?_
  rw [outcome, operands_of_latch hl]
  exact doMaskEval_eq_ok.2 ⟨hv, hk, ⟨hf, hm⟩, g, hg, rfl⟩

/-- MASK_SEARCH passes its checks and writes the registers of every mask and CHOSEN. -/
theorem exec_maskSearch : exec .maskSearch s =
    .next ((s.setRes (s.res.setSearch (allPenalties s.params o.v o.e g)).flagSearched).complete 0x29 0x00) := by
  refine exec_of_outcome_ok (i := .maskSearch) ?_
  rw [outcome, operands_of_latch hl]
  exact doMaskSearch_eq_ok.2 ⟨hv, ⟨hf, hm⟩, g, hg, rfl⟩

end

/-- Settles O51: MASK_EVAL's registers hold the mask's penalties and their sum. -/
theorem maskEvalScoresOneMask : Obligations.MaskEvalScoresOneMask := by
  intro s o k g x hl hv hk hf hm hg hx
  rw [exec_maskEval hl hv hf hm hg hk, ← penRuleWords_penalties _ _ _ _ _ hx, ← sum_penalties _ _ _ _ _ hx]
  rfl

/-! ### The choice (R228) -/

/-- The index found is an entry's, no entry is less, and every earlier one is greater. -/
theorem smallestMin_spec {ts : List Nat} (hts : ts ≠ []) : ∃ h : smallestMin ts < ts.length,
    ∀ j (hj : j < ts.length), ts[smallestMin ts] ≤ ts[j] ∧ (j < smallestMin ts → ts[smallestMin ts] < ts[j]) := by
  induction ts with
  | nil => exact absurd rfl hts
  | cons t ts ih =>
    by_cases hall : ts.all (t ≤ ·) = true
    · have hmin : smallestMin (t :: ts) = 0 := if_pos hall
      simp only [hmin]
      refine ⟨Nat.succ_pos _, fun j hj => ⟨?_, fun h => absurd h (Nat.not_lt_zero j)⟩⟩
      cases j with
      | zero => exact le_rfl
      | succ j => simpa using List.all_eq_true.1 hall _ (List.getElem_mem (Nat.lt_of_succ_lt_succ hj))
    · have hmin : smallestMin (t :: ts) = smallestMin ts + 1 := if_neg hall
      obtain ⟨u, hu, hlt⟩ : ∃ u ∈ ts, u < t := by simpa using hall
      obtain ⟨i, hi, rfl⟩ := List.mem_iff_getElem.1 hu
      obtain ⟨hlen, hspec⟩ := ih (List.ne_nil_of_mem hu)
      have hhead : ts[smallestMin ts] < t := (hspec i hi).1.trans_lt hlt
      simp only [hmin]
      refine ⟨Nat.succ_lt_succ hlen, fun j hj => ?_⟩
      cases j with
      | zero => exact ⟨hhead.le, fun _ => hhead⟩
      | succ j =>
        obtain ⟨hle, hless⟩ := hspec j (Nat.lt_of_succ_lt_succ hj)
        exact ⟨hle, fun h => hless (Nat.lt_of_succ_lt_succ h)⟩

section
variable (p : Params) {v : Nat} (e : EccLevel) (g : Grid)

theorem getD_allPenalties (k : Fin 8) : (allPenalties p v e g).getD k [] = penalties p v e k g := by
  simp [allPenalties]

/-- The best mask is one of the eight, none costs less, and every smaller one costs more. -/
theorem bestMask_allPenalties : bestMask (allPenalties p v e g) < 8 ∧ ∀ k < 8,
    (penalties p v e (bestMask (allPenalties p v e g)) g).sum ≤ (penalties p v e k g).sum ∧
    (k < bestMask (allPenalties p v e g) →
      (penalties p v e (bestMask (allPenalties p v e g)) g).sum < (penalties p v e k g).sum) := by
  have hsums : (allPenalties p v e g).map List.sum = (List.range 8).map fun k => (penalties p v e k g).sum :=
    List.map_map
  obtain ⟨hlt, hspec⟩ := smallestMin_spec (ts := (allPenalties p v e g).map List.sum) (by simp [allPenalties])
  simp only [hsums, List.length_map, List.length_range, List.getElem_map, List.getElem_range] at hlt hspec
  rw [bestMask, hsums]
  exact ⟨hlt, hspec⟩

/-- The total of a mask fits its register (R229). -/
theorem toNat_penTotalWord (hv : legalVersion v = true) (hlen : g.length = side v)
    (hrow : ∀ row ∈ g, row.length = side v) (k : Nat) :
    (penTotalWord (penalties p v e k g)).toNat = (penalties p v e k g).sum := by
  obtain ⟨-, -, -, -, hlt⟩ := penaltiesNeverWrap p v _ hv (square_candidate p e k hlen hrow)
  rw [penTotalWord, BitVec.toNat_ofNat, Nat.mod_eq_of_lt (by rwa [sum_penalties p v e k g rfl])]

end

/-- Every row of a symbol that was read has the symbol's side. -/
theorem length_of_mem_readSymbol {m : Memory} {n : Nat} {g : Grid} (h : readSymbol m n = some g) :
    ∀ row ∈ g, row.length = n := by
  intro row hr
  obtain ⟨i, hi, rfl⟩ := List.mem_iff_getElem.1 hr
  have hrow := readRows_getElem h (length_of_readRows h ▸ hi)
  rw [List.getElem?_eq_getElem hi] at hrow
  exact Memory.length_of_readRange hrow

/-- Settles O52: the registers of every mask are MASK_EVAL's, and their totals, which never wrap, are ordered as the sums
among which the best mask is chosen. -/
theorem maskSearchChoosesTheFirstMinimum : Obligations.MaskSearchChoosesTheFirstMinimum := by
  intro s o g hl hv hf hm hg
  refine ⟨_, exec_maskSearch hl hv hf hm hg, rfl, fun k u hu => ?_, fun best k hbest => ?_⟩
  · have hk : (BitVec.ofNat 8 k.val).toNat = k.val := by
      rw [BitVec.toNat_ofNat]
      exact Nat.mod_eq_of_lt (by omega)
    rw [exec_maskEval hl hv hf hm hg (by omega), hk] at hu
    cases hu
    simp [← getD_allPenalties]
  · obtain ⟨hlt, hspec⟩ := bestMask_allPenalties s.params (v := o.v) o.e g
    have hb : best.val = bestMask (allPenalties s.params o.v o.e g) := by
      rw [hbest, State.setRes_res, Results.flagSearched_chosenMask, Results.setSearch_chosenMask, BitVec.toNat_ofNat]
      exact Nat.mod_eq_of_lt hlt
    have htotal (j : Fin 8) : (s.res.setSearch (allPenalties s.params o.v o.e g)).flagSearched.penTotal[j].toNat =
        (penalties s.params o.v o.e j g).sum := by
      rw [← toNat_penTotalWord s.params o.e g hv (length_of_readRows hg) (length_of_mem_readSymbol hg),
        ← getD_allPenalties]
      simp
    rw [← hb] at hspec
    simpa only [State.setRes_res, BitVec.le_def, BitVec.lt_def, Fin.lt_def, htotal] using hspec k k.isLt

end Sys2Proof.Machine
end

section
/-! PROOFS. MASK_APPLY (R220, R233, R234): what it makes of every module, and that it is its own inverse. -/

namespace Sys2Proof.Machine

open Sys2Proof Sys2Proof.Safety

/-! ### Masked module bytes (R56, R220) -/

theorem maskByte_eq_maskedModule (k r c : Nat) {b : Byte} (hb : b.toNat < 16) :
    maskByte k r c b = maskedModule k r c b := by
  rw [maskByte, maskedModule, inverts, isMaskable_eq_maskable, invertColor_eq_xor b hb]

/-- The colour has no part in what a mask may invert, so inverting twice restores the byte (R234 (a)). -/
theorem maskedModule_maskedModule (k r c : Nat) (b : Byte) : maskedModule k r c (maskedModule k r c b) = b := by
  have hkind : maskable (b ^^^ 0x01) = maskable b := by simp [maskable]
  unfold maskedModule
  split
  · next h => rw [hkind, if_pos h, BitVec.xor_assoc, BitVec.xor_self, BitVec.xor_zero]
  · rfl

/-- No mask inverts a Function module (R220, R234 (d)). -/
theorem maskable_of_function : ∀ b : Byte, b &&& 0x06 = 0x02 → maskable b = false := by decide +kernel

theorem maskedModule_of_function (k r c : Nat) {b : Byte} (hb : b &&& 0x06 = 0x02) : maskedModule k r c b = b := by
  rw [maskedModule, maskable_of_function b hb]
  rfl

/-! ### The masked symbol -/

section
variable {m : Memory} (hi : MemoryInv m)
include hi

/-- A byte of the matrix RAM has bits[7:4] = 0 (R56). -/
theorem lt_of_read_matrix {a : Nat} {b : Byte} (ha : 0x8000 ≤ a) (h : m.read a = some b) : b.toNat < 16 := by
  rcases hi.2 a b h with ⟨-, hbuf⟩ | ⟨-, -, hb⟩
  · omega
  · exact hb

/-- Every module of the symbol is masked (R233). -/
theorem moduleAt_maskModules (k : Nat) {n r c : Nat} (hn : n ≤ 177) (hr : r < n) (hc : c < n) :
    moduleAt (maskModules m n k) r c = (moduleAt m r c).map (maskedModule k r c) := by
  have hread : moduleAt (maskModules m n k) r c = _ := read_maskModules m n k (matAddr r c)
  rw [hread, inSymbol_matAddr hn hr hc, matRow_matAddr (by omega), matCol_matAddr (by omega)]
  refine Option.map_congr fun b hb => ?_
  exact maskByte_eq_maskedModule k r c (lt_of_read_matrix hi (by simp only [matAddr, matBase]; omega) hb)

/-- Masking twice restores the memory, cell by cell (R234 (a)). -/
theorem maskModules_maskModules (n k : Nat) : maskModules (maskModules m n k) n k = m := by
  rw [maskModules, maskModules, Memory.modify, Memory.modify, List.map_map]
  refine (List.map_congr_left fun cell hcell => ?_).trans (List.map_id m)
  rw [Function.comp_apply, id_eq]
  refine Prod.ext rfl ?_
  simp only
  split
  · next hin =>
    have hb := lt_of_read_matrix hi (matrix_of_inSymbol hin).1 (Memory.read_of_mem hi.1 hcell)
    rw [maskByte_eq_maskedModule _ _ _ (maskByte_lt k _ _ hb), maskByte_eq_maskedModule _ _ _ hb,
      maskedModule_maskedModule]
  · rfl

end

/-! ### The command -/

/-- MASK_APPLY passes its checks and masks the symbol. -/
theorem exec_maskApply {s : State} {o : Latch} {k : Byte} (hw : s.mem.wf) (hl : s.latch = some o)
    (hv : legalVersion o.v = true) (hk : k.toNat ≤ 7) (hf : s.res.funcDone = true) (hm : s.res.mxVersion = o.version)
    (hs : SymbolWritten s.mem (side o.v)) : exec (.maskApply k) s =
      .next ((s.commit s.res.flagMasked (maskModules s.mem (side o.v) k.toNat)).complete 0x2A 0x00) := by
  refine exec_of_outcome_ok (i := .maskApply k) ?_
  rw [outcome, operands_of_latch hl]
  exact doMaskApply_eq_ok.2 ⟨hv, hk, ⟨hf, hm⟩,
    Option.isSome_iff_exists.1 ((readSymbol_isSome hw).2 fun r c hr hc => hs r hr c hc), rfl⟩

/-- Settles O53: each module is masked, and a byte outside the symbol is left. -/
theorem maskApplyInvertsMaskableModules : Obligations.MaskApplyInvertsMaskableModules := by
  intro s o k hi hl hv hk hf hm hs
  refine ⟨_, exec_maskApply hi.1 hl hv hk hf hm hs, ?_, ?_⟩
  · exact fun r hr c hc => moduleAt_maskModules hi _ (side_le hv).2 hr hc
  · exact fun a ha => read_maskModules_outside s.mem _ (inSymbol_eq_false ha)

/-- `DO MASK_APPLY k` completes with the symbol masked, and leaves CONFIG alone (R116, R233). -/
theorem doCommand_maskApply {s : State} {k : Byte} (hw : s.mem.wf) (hv : legalVersion s.version.toNat = true)
    (hk : k.toNat ≤ 7) (hf : s.res.funcDone = true) (hm : s.res.mxVersion = s.version)
    (hs : SymbolWritten s.mem (side s.version.toNat)) : ∃ t, doCommand (.maskApply k) s = .next t ∧
      t.mem = maskModules s.mem (side s.version.toNat) k.toNat ∧ t.res = s.res.flagMasked ∧ t.version = s.version := by
  have hexec := exec_maskApply (s := s.accept (encode (.maskApply k))) (o := s.latchOf _) hw rfl hv hk hf hm hs
  rw [doCommand, hexec]
  exact ⟨_, rfl, rfl, rfl, rfl⟩

/-- Settles O54: the first command leaves a written symbol, and the second masks it back. -/
theorem maskApplyTwiceRestores : Obligations.MaskApplyTwiceRestores := by
  intro s k hi _ hv hk hf hm hs
  have hmask {r c : Nat} (hr : r < side s.version.toNat) (hc : c < side s.version.toNat) :=
    moduleAt_maskModules hi k.toNat (side_le hv).2 hr hc
  obtain ⟨t, ht, htmem, htres, htv⟩ := doCommand_maskApply hi.1 hv hk hf hm hs
  obtain ⟨u, hu, humem, hures, -⟩ : ∃ u, doCommand (.maskApply k) t = .next u ∧ _ := by
    refine doCommand_maskApply ?_ (htv ▸ hv) hk (by rw [htres]; exact hf) (by rw [htres, htv]; exact hm) ?_
    · exact htmem ▸ maskModules_wf hi.1 _ _
    · intro r hr c hc
      rw [htv] at hr hc
      rw [htmem, hmask hr hc, Option.isSome_map]
      exact hs r hr c hc
  refine ⟨t, u, ht, hu, ?_, by rw [hures]; rfl, fun r hr c hc b hb hfun => ?_⟩
  · rw [humem, htv, htmem, maskModules_maskModules hi]
  · rw [htmem, hmask hr hc, hb, Option.map_some, maskedModule_of_function _ _ _ hfun]

end Sys2Proof.Machine
end

section
/-! PROOFS. BCH_FMT and BCH_VER (R251 to R253, R256, R257): the words of the tables as multiples of their generators, and
the distance between two format words as the weight of one multiple. -/

namespace Sys2Proof.Machine

open Sys2Proof Sys2Proof.Safety

/-! ### The words the machine computes -/

/-- R251's table lists FORMATWORD by CONFIG.ECL's code of the level and by mask. -/
theorem formatWord_eq_table : ∀ e < 4, ∀ k < 8,
    formatWord (eccLevel (BitVec.ofNat 2 e)) k = BitVec.ofNat 15 ((formatTable.getD e []).getD k 0) := by decide

/-- R253's table lists VERSIONWORD for VERSION_INFO_XOR = 0, from version 7 on. -/
theorem versionBits_eq_table : ∀ v ≤ 40, 7 ≤ v →
    (BitVec.ofNat 18 v <<< 12) ||| verRemainder (BitVec.ofNat 18 v) =
      BitVec.ofNat 18 (versionTable.getD (v - 7) 0) := by decide

/-- BCH_FMT passes its check and writes the table's word. -/
theorem exec_bchFmt {s : State} {k e : Byte} (hk : k.toNat ≤ 7) (he : e.toNat ≤ 3) :
    exec (.bchFmt k e) s = .next ((s.setRes (s.res.setFmtWord
      (BitVec.ofNat 15 ((formatTable.getD e.toNat []).getD k.toNat 0)))).complete 0x30 0x00) := by
  refine exec_of_outcome_ok (i := .bchFmt k e) (doBchFmt_eq_ok.2 ⟨⟨hk, he⟩, ?_⟩)
  rw [← formatWord_eq_table e.toNat (by omega) k.toNat (by omega)]
  rfl

/-- BCH_VER passes its check and writes the table's word under the build's VERSION_INFO_XOR. -/
theorem exec_bchVer {s : State} {v : Byte} (h7 : 7 ≤ v.toNat) (h40 : v.toNat ≤ 40) :
    exec (.bchVer v) s = .next ((s.setRes (s.res.setVerWord
      (BitVec.ofNat 18 (versionTable.getD (v.toNat - 7) 0) ^^^ s.params.versionInfoXor))).complete 0x31 0x00) := by
  refine exec_of_outcome_ok (i := .bchVer v) (doBchVer_eq_ok.2 ⟨⟨h7, h40⟩, ?_⟩)
  rw [versionWord, versionBits_eq_table v.toNat h40 h7]

/-! ### The words as codewords (R257 (a), (b)) -/

/-- Unmasked, every word of R251's table is a multiple of G_F. -/
theorem formatTable_multiple : ∀ w ∈ formatTable.flatten, ∃ q < 32, binaryProduct 5 0x537 q = w ^^^ 0x5412 := by
  decide

theorem formatTable_mem_flatten : ∀ e < 4, ∀ k < 8, (formatTable.getD e []).getD k 0 ∈ formatTable.flatten := by decide

/-- The bits above the remainder are R250's level code and the mask. -/
theorem formatTable_data : ∀ e < 4, ∀ k < 8,
    ((formatTable.getD e []).getD k 0 ^^^ 0x5412) / 1024 = [1, 0, 3, 2].getD e 0 * 8 + k := by decide

/-- Every word of R253's table is a multiple of G_V. -/
theorem versionTable_multiple : ∀ w ∈ versionTable, ∃ q < 64, binaryProduct 6 0x1F25 q = w := by decide +kernel

theorem versionTable_mem : ∀ v ≤ 40, 7 ≤ v → versionTable.getD (v - 7) 0 ∈ versionTable := by decide

/-- The bits above the remainder are the version number. -/
theorem versionTable_data : ∀ v ≤ 40, 7 ≤ v → versionTable.getD (v - 7) 0 / 4096 = v := by decide

/-! ### The distance of two format words (R257 (c)) -/

/-- The multiples of a polynomial are closed under XOR. -/
theorem binaryProduct_xor (n a b c : Nat) :
    binaryProduct n a (b ^^^ c) = binaryProduct n a b ^^^ binaryProduct n a c := by
  refine bitPoly_injective ?_
  rw [bitPoly_xor, bitPoly_binaryProduct, bitPoly_binaryProduct, bitPoly_binaryProduct, Nat.xor_mod_two_pow,
    bitPoly_xor, mul_add]

/-- Every multiple of G_F but 0 has at least 7 set bits. -/
theorem weight_multiple : ∀ q < 32, q ≠ 0 →
    7 ≤ (List.range 15).countP fun i => (binaryProduct 5 0x537 q).testBit i := by decide

/-- The fixed mask drops out of the XOR of two format words, which is thus a multiple of G_F. -/
theorem formatTable_distance {w w' : Nat} (hw : w ∈ formatTable.flatten) (hw' : w' ∈ formatTable.flatten)
    (hne : w ≠ w') : 7 ≤ (List.range 15).countP fun i => (w ^^^ w').testBit i := by
  obtain ⟨q, hq, hqw⟩ := formatTable_multiple w hw
  obtain ⟨q', hq', hqw'⟩ := formatTable_multiple w' hw'
  have hmult : binaryProduct 5 0x537 (q ^^^ q') = w ^^^ w' := by
    rw [binaryProduct_xor, hqw, hqw', Nat.xor_comm w', Nat.xor_assoc, Nat.xor_xor_cancel_left]
  have hq0 : q ^^^ q' ≠ 0 := fun h0 => hne (Nat.xor_eq_zero_iff.1 (by rw [← hmult, h0]; rfl))
  rw [← hmult]
  exact weight_multiple _ (Nat.xor_lt_two_pow (n := 5) hq hq') hq0

/-- Settles O55: both commands pass their check, and the facts about the words are those of the two tables. -/
theorem bchCommandsFollowTheTables : Obligations.BchCommandsFollowTheTables := by
  refine ⟨fun s k e => exec_bchFmt, fun s v => exec_bchVer, fun e he k hk => ?_, fun v h7 h40 => ?_,
    fun w hw w' => formatTable_distance hw⟩
  · exact ⟨formatTable_multiple _ (formatTable_mem_flatten e he k hk), formatTable_data e he k hk⟩
  · exact ⟨versionTable_multiple _ (versionTable_mem v h40 h7), versionTable_data v h40 h7⟩

end Sys2Proof.Machine
end

section
/-! PROOFS. ENCODE as one function of the latched V and E, the data codewords and the parameters (R270): the memory and
the result registers that its eight steps leave. -/

namespace Sys2Proof.Machine

open Sys2Proof Sys2Proof.Safety

/-! ### What the steps leave -/

section
variable (v : Nat) (e : EccLevel) (data : List Byte) (m : Memory)

/-- The codewords INTERLEAVE makes of the data and the ECC that RS_ENCODE_ALL has stored (R158, R180). -/
def codewordStream : List Byte := interleaved v e data (blockEcc v e data)

/-- Memory after RS_ENCODE_ALL and INTERLEAVE (R158, R180). -/
def codedMemory : Memory :=
  (m.writeRange eccBase (blockEcc v e data)).writeRange cwBase (codewordStream v e data)

/-- Memory after MX_FUNC (R190). -/
def drawnMemory : Memory := (codedMemory v e data m).writeRange matBase (drawnMatrix v)

/-- Memory after MX_PLACE (R200). -/
def placedMemory : Memory :=
  placeModules (drawnMemory v e data m) (side v)
    (placements (zigzag (side v) (drawnGrid v)) (placedBits v (codewordStream v e data)))

end

section
variable (p : Params) (v : Nat) (e : EccLevel)

/-- The mask MASK_SEARCH chooses for a placed symbol (R228, R231). -/
def searchedMask (g : Grid) : BitVec 3 := BitVec.ofNat 3 (bestMask (allPenalties p v e g))

/-- What VER_WRITE leaves in VER_WORD (R255). -/
def versionInfo : BitVec 18 := if 7 ≤ v then versionWord p v else 0

/-- The module bytes VER_WRITE stores (R255). -/
def versionCells : List Host.Cell := if 7 ≤ v then versionModules (side v) (versionWord p v) else []

/-- Memory after MASK_APPLY, FMT_WRITE and VER_WRITE on a placed symbol (R233, R254, R255). -/
def finishedMemory (k : Nat) (m : Memory) : Memory :=
  ((maskModules m (side v) k).writeEach (formatModules (side v) (formatWord e k))).writeEach (versionCells p v)

end

/-- Memory after ENCODE, `g` being the placed symbol (R270). -/
def encodedMemory (p : Params) (v : Nat) (e : EccLevel) (data : List Byte) (g : Grid) (m : Memory) : Memory :=
  finishedMemory p v e (searchedMask p v e g).toNat (placedMemory v e data m)

/-- The result registers after RS_ENCODE_ALL and INTERLEAVE (R158, R180). -/
def codedResults (v : Nat) (e : EccLevel) (r : Results) : Results :=
  ((r.setGen (eccPerBlk v e)).flagEcc.setCwLen (totalCw v)).flagIlv

/-- The result registers after MX_FUNC and MX_PLACE (R190, R200). -/
def placedResults (version : BitVec 6) (r : Results) : Results := (r.setDrawn version).flagFunc.flagPlaced

/-- The result registers after MASK_SEARCH on the placed symbol `g` and MASK_APPLY (R231, R233). -/
def maskedResults (p : Params) (v : Nat) (e : EccLevel) (g : Grid) (r : Results) : Results :=
  (r.setSearch (allPenalties p v e g)).flagSearched.flagMasked

/-- The result registers after FMT_WRITE and VER_WRITE (R254, R255). -/
def informedResults (p : Params) (v : Nat) (e : EccLevel) (k : Nat) (r : Results) : Results :=
  ((r.setFmtWord (formatWord e k)).flagFmt.setVerWord (versionInfo p v)).flagVer

/-- The result registers after ENCODE, `g` being the placed symbol (R270). -/
def encodedResults (p : Params) (version : BitVec 6) (e : EccLevel) (g : Grid) (r : Results) : Results :=
  informedResults p version.toNat e (searchedMask p version.toNat e g).toNat
    (maskedResults p version.toNat e g (placedResults version (codedResults version.toNat e r)))

/-! ### What the steps read -/

theorem length_codewordStream {v : Nat} (hv : legalVersion v = true) {e : EccLevel} {data : List Byte}
    (hd : data.length = dataCw v e) : (codewordStream v e data).length = totalCw v :=
  length_interleaved hv e hd (length_blockEcc hv e data)

section
variable {v : Nat} {e : EccLevel} {data : List Byte} {m : Memory} (hw : m.wf)
include hw

theorem codedMemory_wf : (codedMemory v e data m).wf := Memory.writeRange_wf (Memory.writeRange_wf hw _ _) _ _

theorem drawnMemory_wf : (drawnMemory v e data m).wf := Memory.writeRange_wf (codedMemory_wf hw) _ _

theorem placedMemory_wf : (placedMemory v e data m).wf := placeModules_wf (drawnMemory_wf hw) _ _

variable (hv : legalVersion v = true)
include hv

/-- INTERLEAVE reads the data codewords, which RS_ENCODE_ALL has left alone. -/
theorem readRange_data_after_ecc (hd : m.readRange dcwBase (dataCw v e) = some data) :
    (m.writeRange eccBase (blockEcc v e data)).readRange dcwBase (dataCw v e) = some data := by
  have hfit := codewords_fit hv e
  rw [Memory.readRange_writeRange_other hw, hd]
  simp only [dcwBase, eccBase]
  omega

/-- INTERLEAVE reads the ECC codewords that RS_ENCODE_ALL has stored. -/
theorem readRange_ecc_after_ecc : (m.writeRange eccBase (blockEcc v e data)).readRange eccBase
    (numBlocks v e * eccPerBlk v e) = some (blockEcc v e data) := by
  rw [← length_blockEcc hv e data]
  exact Memory.readRange_writeRange_same hw _ _

/-- MX_PLACE reads the codewords that INTERLEAVE has stored, which MX_FUNC has left alone. -/
theorem readRange_stream_after_drawn (hd : data.length = dataCw v e) :
    (drawnMemory v e data m).readRange cwBase (totalCw v) = some (codewordStream v e data) := by
  have hlen := length_codewordStream hv hd
  have hfit := codewords_fit hv e
  rw [drawnMemory, Memory.readRange_writeRange_other (codedMemory_wf hw), ← hlen]
  · exact Memory.readRange_writeRange_same (Memory.writeRange_wf hw _ _) _ _
  · simp only [cwBase, matBase]
    omega

/-- MASK_SEARCH reads the symbol that MX_FUNC has drawn and MX_PLACE has filled. -/
theorem exists_readSymbol_placed : ∃ g, readSymbol (placedMemory v e data m) (side v) = some g := by
  refine Option.isSome_iff_exists.1 ((readSymbol_isSome (placedMemory_wf hw)).2 fun r c hr hc => ?_)
  rw [placedMemory, read_placeModules, Option.isSome_map]
  exact Option.isSome_iff_exists.2 ⟨_, moduleAt_drawn _ hv hr hc⟩

end

/-! ### The steps, two by two -/

section
variable {o : Latch} {s : State} {data : List Byte} (hv : legalVersion o.v = true)
include hv

/-- RS_ENCODE_ALL and INTERLEAVE read the data codewords alone (R158, R180). -/
theorem exists_coded (hw : s.mem.wf) (hd : s.mem.readRange dcwBase (dataCw o.v o.e) = some data) :
    ∃ s1, doRsEncodeAll o s = .ok s1 ∧
      doInterleave o s1 = .ok (s.commit (codedResults o.v o.e s.res) (codedMemory o.v o.e data s.mem)) := by
  have hstream : (interleaved o.v o.e data (blockEcc o.v o.e data)).length = totalCw o.v :=
    length_codewordStream hv (Memory.length_of_readRange hd)
  refine ⟨_, doRsEncodeAll_eq_ok.2 ⟨hv, data, hd, rfl⟩, doInterleave_eq_ok.2 ⟨hv, data,
    readRange_data_after_ecc hw hv hd, _, readRange_ecc_after_ecc hw hv, ?_⟩⟩
  rw [hstream, State.commit_commit]
  rfl

/-- MX_PLACE finds the symbol MX_FUNC has drawn, and in it a module for every bit (R190, R198, R200). -/
theorem exists_placed {r : Results} {m : Memory} (hw : m.wf) (hd : data.length = dataCw o.v o.e) :
    ∃ s3, doMxFunc o (s.commit r (codedMemory o.v o.e data m)) = .ok s3 ∧
      doMxPlace o s3 = .ok (s.commit (placedResults o.version r) (placedMemory o.v o.e data m)) :=
  ⟨_, doMxFunc_eq_ok.2 ⟨hv, rfl⟩, doMxPlace_eq_ok.2 ⟨hv, ⟨rfl, rfl, rfl⟩, _,
    readSymbol_drawn (codedMemory_wf hw) hv, length_zigzag_drawn hv, _, readRange_stream_after_drawn hw hv hd, rfl⟩⟩

variable {r : Results} {m : Memory} (hf : r.funcDone = true) (hm : r.mxVersion = o.version)
include hf hm

/-- MASK_APPLY of the mask MASK_SEARCH has chosen reads the same symbol (R231, R233). -/
theorem exists_masked {g : Grid} (hg : readSymbol m (side o.v) = some g) :
    ∃ s5, doMaskSearch o (s.commit r m) = .ok s5 ∧
      doMaskApply s5.res.chosenMask.toNat o s5 = .ok (s.commit (maskedResults s.params o.v o.e g r)
        (maskModules m (side o.v) (searchedMask s.params o.v o.e g).toNat)) :=
  ⟨_, doMaskSearch_eq_ok.2 ⟨hv, ⟨hf, hm⟩, g, hg, rfl⟩,
    doMaskApply_eq_ok.2 ⟨hv, Nat.le_of_lt_succ (BitVec.isLt _), ⟨hf, hm⟩, ⟨g, hg⟩, rfl⟩⟩

/-- FMT_WRITE and VER_WRITE read no module (R254, R255). -/
theorem exists_informed {k : Nat} (hk : k ≤ 7) :
    ∃ s7, doFmtWrite k o (s.commit r m) = .ok s7 ∧ doVerWrite o s7 = .ok (s.commit
      (informedResults s.params o.v o.e k r)
      ((m.writeEach (formatModules (side o.v) (formatWord o.e k))).writeEach (versionCells s.params o.v))) := by
  refine ⟨_, doFmtWrite_eq_ok.2 ⟨hv, hk, ⟨hf, hm⟩, rfl⟩, doVerWrite_eq_ok.2 ⟨hv, ⟨hf, hm⟩, ?_⟩⟩
  simp only [informedResults, versionInfo, versionCells, State.commit_commit, State.commit_res, State.commit_mem,
    State.commit_params]
  rcases Nat.lt_or_ge o.v 7 with h | h
  · rw [if_neg (by omega), if_neg (by omega), Memory.writeEach_nil]
    exact .inr ⟨h, rfl⟩
  · rw [if_pos h, if_pos h]
    exact .inl ⟨h, rfl⟩

end

/-- ENCODE's steps all succeed, and leave the registers and the memory above (R270). -/
theorem doEncode_ok {o : Latch} {s : State} {data : List Byte} (hw : s.mem.wf) (hv : legalVersion o.v = true)
    (hd : s.mem.readRange dcwBase (dataCw o.v o.e) = some data) :
    ∃ g, readSymbol (placedMemory o.v o.e data s.mem) (side o.v) = some g ∧
      doEncode o s = .ok (s.commit (encodedResults s.params o.version o.e g s.res)
        (encodedMemory s.params o.v o.e data g s.mem)) := by
  obtain ⟨g, hg⟩ := exists_readSymbol_placed (e := o.e) (data := data) hw hv
  obtain ⟨s1, h1, h2⟩ := exists_coded hv hw hd
  obtain ⟨s3, h3, h4⟩ := exists_placed (s := s) (r := codedResults o.v o.e s.res) hv hw (Memory.length_of_readRange hd)
  obtain ⟨s5, h5, h6⟩ := exists_masked (s := s) (r := placedResults o.version (codedResults o.v o.e s.res)) hv rfl rfl
    hg
  obtain ⟨s7, h7, h8⟩ := exists_informed (s := s) hv
    (r := maskedResults s.params o.v o.e g (placedResults o.version (codedResults o.v o.e s.res))) rfl rfl
    (Nat.le_of_lt_succ (searchedMask s.params o.v o.e g).isLt)
  exact ⟨g, hg, doEncode_eq_ok.2 ⟨hv, s1, h1, _, h2, s3, h3, _, h4, s5, h5, _, h6, s7, h7, h8⟩⟩

/-- ENCODE leaves the result registers of the commands it does not run (R270). -/
theorem encodedResults_frame (p : Params) (version : BitVec 6) (e : EccLevel) (g : Grid) (r : Results) :
    (encodedResults p version e g r).synz = r.synz ∧ (encodedResults p version e g r).synd = r.synd ∧
      (encodedResults p version e g r).gfRes = r.gfRes := by
  simp [encodedResults, informedResults, maskedResults, placedResults, codedResults]

/-- Whatever result registers ENCODE finds, it leaves the same ones, but for the three that it does not touch (R270). -/
theorem encodedResults_eq (p : Params) (version : BitVec 6) (e : EccLevel) (g : Grid) (r r' : Results) :
    encodedResults p version e g r' =
      { encodedResults p version e g r with gfRes := r'.gfRes, synd := r'.synd, synz := r'.synz } := by
  cases r
  cases r'
  rfl

/-! ### The command -/

/-- ENCODE completes on written data codewords, with the registers and the memory of its eight steps (R270). -/
theorem exec_encode {s : State} {o : Latch} {data : List Byte} (hw : s.mem.wf) (hl : s.latch = some o)
    (hv : legalVersion o.v = true) (hd : s.mem.readRange dcwBase (dataCw o.v o.e) = some data) :
    ∃ g, readSymbol (placedMemory o.v o.e data s.mem) (side o.v) = some g ∧
      exec .encode s = .next ((s.commit (encodedResults s.params o.version o.e g s.res)
        (encodedMemory s.params o.v o.e data g s.mem)).complete 0x3F 0x00) := by
  obtain ⟨g, hg, h⟩ := doEncode_ok hw hv hd
  refine ⟨g, hg, exec_of_outcome_ok (i := .encode) ?_⟩
  rw [outcome, operands_of_latch hl]
  exact h

theorem exists_readRange_of_written {m : Memory} (hw : m.wf) {a n : Nat} (h : Written m a n) :
    ∃ bs, m.readRange a n = some bs := Option.isSome_iff_exists.1 ((Memory.readRange_isSome hw).2 h)

end Sys2Proof.Machine
end

section
/-! PROOFS. ENCODE leaves every module of the symbol assigned (R57, R270): MX_FUNC assigns the function patterns,
MX_PLACE the free modules, FMT_WRITE and VER_WRITE the reserved ones, and no later step takes ASSIGNED back. -/

namespace Sys2Proof.Machine

open Sys2Proof Sys2Proof.Safety

/-- The offset holds a module byte with ASSIGNED set (R57). -/
def Assigned (m : Memory) (a : Nat) : Prop := ∃ b, m.read a = some b ∧ b.getLsbD 3 = true

/-! ### Module bytes -/

@[simp] theorem asg_moduleByte (color : Bool) (kind : ModuleKind) (asg : Bool) :
    (moduleByte color kind asg).getLsbD 3 = asg := by
  cases color <;> cases kind <;> cases asg <;> decide

theorem asg_maskByte (k r c : Nat) (b : Byte) : (maskByte k r c b).getLsbD 3 = b.getLsbD 3 := by
  unfold maskByte
  split
  · exact asg_moduleByte _ _ _
  · rfl

/-- A module is drawn assigned, or reserved for the format or the version, or left free (R190). -/
theorem drawnModule_cases (v r c : Nat) : (drawnModule v r c).getLsbD 3 = true ∨ isFormatPos (side v) r c = true ∨
    isVersionPos v r c = true ∨ isFree (drawnModule v r c) = true := by
  cases hf : functionAt v r c with
  | some color =>
    refine .inl ?_
    rw [drawnModule, hf]
    exact asg_moduleByte _ _ _
  | none =>
    rw [isFree_drawnModule, hf]
    cases isFormatPos (side v) r c <;> cases isVersionPos v r c <;> simp

/-! ### What keeps a module assigned -/

section
variable {m : Memory} {a : Nat} (h : Assigned m a)
include h

theorem assigned_placeModules (s : Nat) (ps : List (Nat × Bool)) : Assigned (placeModules m s ps) a := by
  obtain ⟨b, hb, hasg⟩ := h
  refine ⟨_, by rw [read_placeModules, hb, Option.map_some], ?_⟩
  split
  · cases ps.lookup a with
    | none => exact hasg
    | some bit => exact asg_moduleByte _ _ _
  · exact hasg

theorem assigned_maskModules (s k : Nat) : Assigned (maskModules m s k) a := by
  obtain ⟨b, hb, hasg⟩ := h
  refine ⟨_, by rw [read_maskModules, hb, Option.map_some], ?_⟩
  split
  · rwa [asg_maskByte]
  · exact hasg

end

/-- Stores of assigned bytes keep an assigned module and assign every module they name. -/
theorem assigned_writeEach {m : Memory} {a : Nat} {ws : List Host.Cell} (hws : ∀ c ∈ ws, c.2.getLsbD 3 = true)
    (h : Assigned m a ∨ ∃ c ∈ ws, c.1 = a) : Assigned (m.writeEach ws) a := by
  induction ws generalizing m with
  | nil => simpa using h
  | cons w ws ih =>
    obtain ⟨hw, hws⟩ := List.forall_mem_cons.1 hws
    refine ih hws ?_
    by_cases ha : a = w.1
    · exact .inl ⟨w.2, by rw [Memory.read_write, if_pos ha], hw⟩
    · rcases h with ⟨b, hb, hasg⟩ | ⟨c, hc, hca⟩
      · exact .inl ⟨b, by rw [Memory.read_write, if_neg ha, hb], hasg⟩
      · rcases List.mem_cons.1 hc with rfl | hc
        · exact absurd hca.symm ha
        · exact .inr ⟨c, hc, hca⟩

/-! ### FMT_WRITE and VER_WRITE -/

theorem asg_formatModules {s : Nat} {w : BitVec 15} : ∀ c ∈ formatModules s w, c.2.getLsbD 3 = true := by
  intro c hc
  obtain ⟨p, -, rfl⟩ := mem_formatModules hc
  exact asg_moduleByte _ _ _

theorem asg_versionCells {p : Params} {v : Nat} : ∀ c ∈ versionCells p v, c.2.getLsbD 3 = true := by
  intro c hc
  unfold versionCells at hc
  split at hc
  · obtain ⟨q, -, rfl⟩ := mem_versionModules hc
    exact asg_moduleByte _ _ _
  · cases hc

/-- A position that a list of numbered positions finds is one of them. -/
theorem exists_mem_of_lookup {ps : List ((Nat × Nat) × Nat)} {r c : Nat} (h : (ps.lookup (r, c)).isSome = true) :
    ∃ p ∈ ps, p.1 = (r, c) := by
  rw [lookup_isSome, List.any_eq_true] at h
  simpa only [beq_iff_eq] using h

theorem exists_formatModule {s r c : Nat} (w : BitVec 15) (h : isFormatPos s r c = true) :
    ∃ x ∈ formatModules s w, x.1 = matAddr r c := by
  obtain ⟨p, hp, hrc⟩ := exists_mem_of_lookup h
  exact ⟨_, List.mem_map_of_mem hp, by rw [hrc]⟩

theorem exists_versionCell {v r c : Nat} (p : Params) (h : isVersionPos v r c = true) :
    ∃ x ∈ versionCells p v, x.1 = matAddr r c := by
  obtain ⟨h7, h⟩ := Bool.and_eq_true_iff.1 h
  obtain ⟨q, hq, hrc⟩ := exists_mem_of_lookup h
  rw [versionCells, if_pos (of_decide_eq_true h7)]
  exact ⟨_, List.mem_map_of_mem hq, by rw [hrc]⟩

/-! ### MX_PLACE -/

section
variable {v : Nat} (hv : legalVersion v = true) {e : EccLevel} {data : List Byte} {m : Memory} {r c : Nat}
  (hr : r < side v) (hc : c < side v)
include hv hr hc

/-- Every free module is on the zigzag, and MX_PLACE has a bit for each of them (R198, R200). -/
theorem assigned_placed_of_free (hw : m.wf) (hd : data.length = dataCw v e) (h : isFree (drawnModule v r c) = true) :
    Assigned (placedMemory v e data m) (matAddr r c) := by
  have h6 : c ≠ 6 := by
    rintro rfl
    rw [isFree_column_six hv hr] at h
    cases h
  have hmem : (r, c) ∈ zigzag (side v) (drawnGrid v) :=
    mem_zigzag.2 ⟨⟨⟨hr, hc⟩, h6⟩, by rwa [gridAt_drawnGrid hr hc]⟩
  obtain ⟨k, hk⟩ := List.mem_iff_getElem?.1 hmem
  have hlt : k < 8 * totalCw v + remBits v := length_zigzag_drawn hv ▸ (List.getElem?_eq_some_iff.1 hk).1
  refine ⟨_, read_placeModules_zigzag (drawnMemory_wf hw) hv (readSymbol_drawn (codedMemory_wf hw) hv) hk
    (getElem?_placedBits (length_codewordStream hv hd) hlt), ?_⟩
  split <;> rfl

/-- Once the reserved modules are written too, every module of the symbol is assigned (R57). -/
theorem assigned_encodedMemory (p : Params) (g : Grid) (hw : m.wf) (hd : data.length = dataCw v e) :
    Assigned (encodedMemory p v e data g m) (matAddr r c) := by
  have hkeep (h : Assigned (placedMemory v e data m) (matAddr r c)) :
      Assigned (encodedMemory p v e data g m) (matAddr r c) :=
    assigned_writeEach asg_versionCells (.inl (assigned_writeEach asg_formatModules
      (.inl (assigned_maskModules h _ _))))
  rcases drawnModule_cases v r c with hdrawn | hformat | hversion | hfree
  · exact hkeep (assigned_placeModules ⟨_, moduleAt_drawn _ hv hr hc, hdrawn⟩ _ _)
  · exact assigned_writeEach asg_versionCells (.inl (assigned_writeEach asg_formatModules
      (.inr (exists_formatModule _ hformat))))
  · exact assigned_writeEach asg_versionCells (.inr (exists_versionCell p hversion))
  · exact hkeep (assigned_placed_of_free hv hr hc hw hd hfree)

end

/-- Settles O57: the registers are those of `encodedResults`, the modules are assigned by `assigned_encodedMemory`, and
the frame is every command's. -/
theorem encodeCompletes : Obligations.EncodeCompletes := by
  intro s o hw hl hv hwritten
  obtain ⟨data, hd⟩ := exists_readRange_of_written hw hwritten
  obtain ⟨g, -, hexec⟩ := exec_encode hw hl hv hd
  have hframe := commandsStoreOnlyInTheirSet .encode s o _ hl hexec
  have hasg := fun r hr c hc => assigned_encodedMemory (r := r) (c := c) hv hr hc s.params g hw
    (Memory.length_of_readRange hd)
  obtain ⟨hsynz, hsynd, hgf⟩ := encodedResults_frame s.params o.version o.e g s.res
  -- Opaque registers and memory, so that the two forms of the next state are matched field by field.
  generalize encodedMemory s.params o.v o.e data g s.mem = m at hexec hframe hasg
  generalize hregs : encodedResults s.params o.version o.e g s.res = r at hexec hframe hsynz hsynd hgf
  refine ⟨m, r, hexec, ?_⟩
  subst hregs
  exact ⟨rfl, rfl, rfl, rfl, rfl, rfl, rfl, rfl, hsynz, hsynd, hgf, rfl, rfl, rfl, rfl, rfl, rfl, hasg, hframe⟩

end Sys2Proof.Machine
end

section
/-! PROOFS. ENCODE's result as a function of V, E, the data codewords and the parameters (R270, R314): it stores every
byte of its store set from them before it reads one. -/

namespace Sys2Proof.Machine

open Sys2Proof Sys2Proof.Safety

/-! ### Stores carry an agreement of two memories on -/

section
variable {m m' : Memory} {a : Nat} (h : m'.read a = m.read a)
include h

theorem read_writeRange_congr (b : Nat) (bs : List Byte) :
    (m'.writeRange b bs).read a = (m.writeRange b bs).read a := by
  rw [Memory.read_writeRange, Memory.read_writeRange, h]

theorem read_writeEach_congr (ws : List Host.Cell) : (m'.writeEach ws).read a = (m.writeEach ws).read a := by
  induction ws generalizing m m' with
  | nil => exact h
  | cons w ws ih => exact ih (by rw [Memory.read_write, Memory.read_write, h])

/-- The steps after MX_PLACE carry it on (R233, R254, R255). -/
theorem read_finishedMemory_congr (p : Params) (v : Nat) (e : EccLevel) (k : Nat) :
    (finishedMemory p v e k m').read a = (finishedMemory p v e k m).read a := by
  refine read_writeEach_congr (read_writeEach_congr ?_ _) _
  rw [read_maskModules, read_maskModules, h]

end

/-- A range write leaves the range it stores alike in any two memories. -/
theorem read_writeRange_within (m m' : Memory) {a b n : Nat} {bs : List Byte} (hn : bs.length = n) (ha : Within a b n) :
    (m'.writeRange b bs).read a = (m.writeRange b bs).read a := by
  subst hn
  rw [Memory.read_writeRange, Memory.read_writeRange, if_pos ha, if_pos ha]

/-! ### The store set -/

section
variable {v : Nat} (hv : legalVersion v = true) {e : EccLevel} {data : List Byte} (hd : data.length = dataCw v e)
  (m m' : Memory)
include hv hd

/-- RS_ENCODE_ALL, INTERLEAVE, MX_FUNC and MX_PLACE leave ENCODE's store set alike in any two memories (R312). -/
theorem read_placedMemory_eq {a : Nat} (ha : Within a 0x8000 31329 ∨
    Within a 0x2000 (numBlocks v e * eccPerBlk v e) ∨ Within a 0x3000 (totalCw v)) :
    (placedMemory v e data m').read a = (placedMemory v e data m).read a := by
  have hdrawn : (drawnMemory v e data m').read a = (drawnMemory v e data m).read a := by
    rcases ha with hmat | hecc | hcw
    · exact read_writeRange_within _ _ (length_drawnMatrix v) hmat
    · exact read_writeRange_congr (read_writeRange_congr
        (read_writeRange_within m m' (length_blockEcc hv e data) hecc) _ _) _ _
    · exact read_writeRange_congr (read_writeRange_within _ _ (length_codewordStream hv hd) hcw) _ _
  rw [placedMemory, placedMemory, read_placeModules, read_placeModules, hdrawn]

/-- MASK_SEARCH reads the same symbol whatever memory held before (R231). -/
theorem readSymbol_placedMemory_eq (hw : m.wf) (hw' : m'.wf) :
    readSymbol (placedMemory v e data m') (side v) = readSymbol (placedMemory v e data m) (side v) := by
  refine readSymbol_congr (placedMemory_wf hw') (placedMemory_wf hw) fun r c hr hc => ?_
  exact read_placedMemory_eq hv hd m m' (.inl (within_of_inSymbol (side_le hv).2 ⟨r, hr, c, hc, rfl⟩))

end

/-- Settles O59: both runs read one symbol, so that they choose one mask and finish alike the store set, which MX_PLACE
has left alike. -/
theorem encodeDependsOnItsInputsAlone : Obligations.EncodeDependsOnItsInputsAlone := by
  intro s s' o o' hw hw' hl hl' hver hecl hparams hv hwritten hagree
  obtain ⟨data, hd⟩ := exists_readRange_of_written hw hwritten
  have hd' : s'.mem.readRange dcwBase (dataCw o.v o.e) = some data :=
    (Memory.readRange_congr hw' hw hagree).trans hd
  have hlen : data.length = dataCw o.v o.e := Memory.length_of_readRange hd
  have hv' : o'.v = o.v := congrArg BitVec.toNat hver.symm
  have he' : o'.e = o.e := congrArg eccLevel hecl.symm
  obtain ⟨g, hg, hexec⟩ := exec_encode hw hl hv hd
  obtain ⟨g', hg', hexec'⟩ := exec_encode (data := data) hw' hl' (hv' ▸ hv) (by rw [hv', he', hd'])
  rw [hv', he'] at hg' hexec'
  rw [← hver, ← hparams] at hexec'
  have hsymbol := readSymbol_placedMemory_eq hv hlen s.mem s'.mem hw hw'
  obtain rfl : g' = g := Option.some.inj (by rw [← hg, ← hg', hsymbol])
  refine ⟨_, _, hexec, hexec', fun a ha => ?_, ?_⟩
  · rw [State.complete_mem, State.commit_mem, State.complete_mem, State.commit_mem]
    exact read_finishedMemory_congr (read_placedMemory_eq hv hlen _ _ ha) _ _ _ _
  · rw [State.complete_res, State.commit_res, State.complete_res, State.commit_res]
    exact encodedResults_eq s.params o.version o.e g' s.res s'.res

end Sys2Proof.Machine
end

section
/-! PROOFS. ENCODE against its eight commands one after the other (R271): each step's outcome follows from the latched V
and E, the result registers, memory and the parameters, and the bookkeeping between two commands leaves all of these. -/

namespace Sys2Proof.Machine

open Sys2Proof Sys2Proof.Safety

/-- The same V and E latched, and the same result registers, memory and parameters. -/
structure SameInputs (o o' : Latch) (u s : State) : Prop where
  version : o'.version = o.version
  ecl : o'.ecl = o.ecl
  res : s.res = u.res
  mem : s.mem = u.mem
  params : s.params = u.params

theorem SameInputs.v {o o' : Latch} {u s : State} (hs : SameInputs o o' u s) : o'.v = o.v :=
  congrArg BitVec.toNat hs.version

theorem SameInputs.e {o o' : Latch} {u s : State} (hs : SameInputs o o' u s) : o'.e = o.e :=
  congrArg eccLevel hs.ecl

/-- A step whose success follows from those inputs, and writes nothing but result registers and memory. -/
def FollowsFromInputs (f : Latch → State → CmdOutcome) : Prop :=
  ∀ {o o' : Latch} {u s w : State}, SameInputs o o' u s → f o u = .ok w → f o' s = .ok (s.commit w.res w.mem)

/-! ### The steps of ENCODE -/

theorem doRsEncodeAll_followsFromInputs : FollowsFromInputs doRsEncodeAll := by
  intro o o' u s w hs h
  obtain ⟨hv, data, hd, rfl⟩ := doRsEncodeAll_eq_ok.1 h
  rw [doRsEncodeAll_eq_ok, hs.v, hs.e, hs.mem, hs.res]
  exact ⟨hv, data, hd, rfl⟩

theorem doInterleave_followsFromInputs : FollowsFromInputs doInterleave := by
  intro o o' u s w hs h
  obtain ⟨hv, data, hd, ecc, he, rfl⟩ := doInterleave_eq_ok.1 h
  rw [doInterleave_eq_ok, hs.v, hs.e, hs.mem, hs.res]
  exact ⟨hv, data, hd, ecc, he, rfl⟩

theorem doMxFunc_followsFromInputs : FollowsFromInputs doMxFunc := by
  intro o o' u s w hs h
  obtain ⟨hv, rfl⟩ := doMxFunc_eq_ok.1 h
  rw [doMxFunc_eq_ok, hs.v, hs.version, hs.mem, hs.res]
  exact ⟨hv, rfl⟩

theorem doMxPlace_followsFromInputs : FollowsFromInputs doMxPlace := by
  intro o o' u s w hs h
  obtain ⟨hv, hdrawn, g, hg, hz, cw, hcw, rfl⟩ := doMxPlace_eq_ok.1 h
  rw [doMxPlace_eq_ok, hs.v, hs.version, hs.mem, hs.res]
  exact ⟨hv, hdrawn, g, hg, hz, cw, hcw, rfl⟩

theorem doMaskSearch_followsFromInputs : FollowsFromInputs doMaskSearch := by
  intro o o' u s w hs h
  obtain ⟨hv, hdrawn, g, hg, rfl⟩ := doMaskSearch_eq_ok.1 h
  rw [doMaskSearch_eq_ok, hs.v, hs.e, hs.version, hs.mem, hs.res, hs.params]
  refine ⟨hv, hdrawn, g, hg, ?_⟩
  rw [State.setRes_eq_commit s, hs.mem]
  rfl

theorem doMaskApply_followsFromInputs (k : Nat) : FollowsFromInputs (doMaskApply k) := by
  intro o o' u s w hs h
  obtain ⟨hv, hk, hdrawn, hg, rfl⟩ := doMaskApply_eq_ok.1 h
  rw [doMaskApply_eq_ok, hs.v, hs.version, hs.mem, hs.res]
  exact ⟨hv, hk, hdrawn, hg, rfl⟩

theorem doFmtWrite_followsFromInputs (k : Nat) : FollowsFromInputs (doFmtWrite k) := by
  intro o o' u s w hs h
  obtain ⟨hv, hk, hdrawn, rfl⟩ := doFmtWrite_eq_ok.1 h
  rw [doFmtWrite_eq_ok, hs.v, hs.e, hs.version, hs.mem, hs.res, State.commit_res, State.commit_mem]
  exact ⟨hv, hk, hdrawn, rfl⟩

theorem doVerWrite_followsFromInputs : FollowsFromInputs doVerWrite := by
  intro o o' u s w hs h
  rw [doVerWrite_eq_ok, hs.v, hs.version, hs.mem, hs.res, hs.params]
  obtain ⟨hv, hdrawn, ⟨h7, rfl⟩ | ⟨h7, rfl⟩⟩ := doVerWrite_eq_ok.1 h <;>
    rw [State.commit_res, State.commit_mem]
  · exact ⟨hv, hdrawn, .inl ⟨h7, rfl⟩⟩
  · exact ⟨hv, hdrawn, .inr ⟨h7, rfl⟩⟩

/-! ### One step as a command of the host (R116) -/

/-- `DO` of a step's command, in a state with the step's inputs, completes with what the step writes and leaves the
inputs of the next step. -/
theorem doCommand_of_step {f : Latch → State → CmdOutcome} (hf : FollowsFromInputs f) {i : Instr}
    (hi : ∀ s, outcome i s = f s.operands s) {o : Latch} {u w s : State} {word : Word}
    (hs : SameInputs o (s.latchOf word) u s) (h : f o u = .ok w) :
    doCommand i s = .next (afterDo i s w.res w.mem) ∧
      SameInputs o ((afterDo i s w.res w.mem).latchOf word) w (afterDo i s w.res w.mem) := by
  have haccept : SameInputs o (s.accept (encode i)).operands u (s.accept (encode i)) :=
    ⟨hs.version, hs.ecl, hs.res, hs.mem, hs.params⟩
  have hself := hf (⟨rfl, rfl, rfl, rfl, rfl⟩ : SameInputs o o u u) h
  have hw : w = u.commit w.res w.mem := CmdOutcome.ok.inj (h.symm.trans hself)
  have hparams : w.params = u.params := by rw [hw, State.commit_params]
  exact ⟨doCommand_of_exec (exec_of_outcome_ok ((hi _).trans (hf haccept h))),
    hs.version, hs.ecl, rfl, rfl, hs.params.trans hparams.symm⟩

/-- Of two commands one after the other, the second leaves what it would have left alone. -/
theorem afterDo_afterDo (i j : Instr) (s : State) (r r' : Results) (m m' : Memory) :
    afterDo i (afterDo j s r' m') r m = afterDo i s r m := rfl

/-- Settles O58: the eight commands of the host, one after the other, come to what the eight steps of ENCODE come to. -/
theorem encodeEqualsTheCommandSequence : Obligations.EncodeEqualsTheCommandSequence := by
  intro s hw _ hv hwritten
  obtain ⟨data, hd⟩ := exists_readRange_of_written hw hwritten
  obtain ⟨r, m, hok⟩ : ∃ r m, doEncode (s.latchOf (encode .encode)) (s.accept (encode .encode)) =
      .ok ((s.accept (encode .encode)).commit r m) := by
    obtain ⟨g, -, h⟩ := doEncode_ok (o := s.latchOf (encode .encode)) (s := s.accept (encode .encode)) hw hv hd
    exact ⟨_, _, h⟩
  obtain ⟨-, s1, h1, s2, h2, s3, h3, s4, h4, s5, h5, s6, h6, s7, h7, h8⟩ := doEncode_eq_ok.1 hok
  have hmask : s6.res.chosenMask = s5.res.chosenMask := by
    obtain ⟨-, -, -, -, rfl⟩ := doMaskApply_eq_ok.1 h6
    rfl
  rw [hmask] at h7
  have hs : SameInputs (s.latchOf (encode .encode)) (s.latchOf (encode .encode)) (s.accept (encode .encode)) s :=
    ⟨rfl, rfl, rfl, rfl, rfl⟩
  obtain ⟨d1, hs⟩ := doCommand_of_step doRsEncodeAll_followsFromInputs (i := .rsEncodeAll) (fun _ => rfl) hs h1
  obtain ⟨d2, hs⟩ := doCommand_of_step doInterleave_followsFromInputs (i := .interleave) (fun _ => rfl) hs h2
  obtain ⟨d3, hs⟩ := doCommand_of_step doMxFunc_followsFromInputs (i := .mxFunc) (fun _ => rfl) hs h3
  obtain ⟨d4, hs⟩ := doCommand_of_step doMxPlace_followsFromInputs (i := .mxPlace) (fun _ => rfl) hs h4
  obtain ⟨d5, hs⟩ := doCommand_of_step doMaskSearch_followsFromInputs (i := .maskSearch) (fun _ => rfl) hs h5
  obtain ⟨d6, hs⟩ := doCommand_of_step (doMaskApply_followsFromInputs _)
    (i := .maskApply (s5.res.chosenMask.setWidth 8)) (fun _ => by rw [outcome, immNat_setWidth_mask]) hs h6
  obtain ⟨d7, hs⟩ := doCommand_of_step (doFmtWrite_followsFromInputs _)
    (i := .fmtWrite (s5.res.chosenMask.setWidth 8)) (fun _ => by rw [outcome, immNat_setWidth_mask]) hs h7
  obtain ⟨d8, -⟩ := doCommand_of_step doVerWrite_followsFromInputs (i := .verWrite) (fun _ => rfl) hs h8
  simp only [afterDo_afterDo] at d2 d3 d4 d5 d6 d7 d8
  exact ⟨_, _, _, _, _, _, _, _, _, _, doCommand_of_exec (exec_of_outcome_ok (i := .encode) hok),
    d1, d2, d3, d4, d5, rfl, d6, d7, d8, rfl⟩

end Sys2Proof.Machine
end

section
/-! PROOFS. Host accesses while a command is in flight (R320, R322). -/

namespace Sys2Proof.Machine

open Sys2Proof Sys2Proof.Safety

/-- A word with bit 1 set, written to CTRL, is the soft reset (R33, R311). -/
theorem hostAccess_ctrlWrite_of_srst (s : State) {w : Word} (hw : w.getLsbD 1 = true) :
    hostAccess s (wordWrite 0x004 w) = .next (s.softReset.answer .written) := by
  refine (hostAccess_wordWrite s .ctrl w).trans ?_
  rw [hostWriteCsr, if_pos ⟨rfl, hw⟩]

/-- Settles O17: each write is its register's update, none of which touches the latch, and a read-only register has
none. -/
theorem csrWritesWhileBusy : Obligations.CsrWritesWhileBusy := by
  intro s o w hl
  obtain ⟨hctrl, -⟩ := hostRegistersTakeWrites s w
  refine ⟨hostAccess_cmdWrite_of_busy (by simp [hl]) w, ⟨_, hostAccess_wordWrite s .config w, rfl, rfl, hl⟩,
    ⟨_, hostAccess_wordWrite s .arg0 w, rfl, hl⟩, ⟨_, hostAccess_wordWrite s .arg1 w, rfl, hl⟩,
    ⟨_, hostAccess_wordWrite s .arg2 w, rfl, hl⟩, fun hw => (hctrl hw).1,
    hostAccess_ctrlWrite_of_srst s, hostAccess_wordWrite s .status w, fun off hoff hro => ?_⟩
  obtain ⟨c, rfl⟩ := csrListed_iff.1 hoff
  rw [hostAccess_wordWrite, hostWriteCsr_of_readOnly s w hro]
  rfl

/-- A RAM access is a hazard exactly while a command is in flight (R320). -/
theorem ramAccess_eq_hazard {s : State} {r : Region} {off n : Nat} {op : AccessOp} :
    ramAccess s r off n op = .fault .hazard ↔ s.latch ≠ none := by
  unfold ramAccess
  cases hl : s.latch with
  | some o => simp [State.busy, hl]
  | none =>
    cases op with
    | write w => simp [State.busy, hl, ramWrite]
    | read => cases hm : s.mem.readRange off n <;> simp [State.busy, hl, ramRead, hm]

/-- Settles O22: an access that reaches no register and no RAM is a bus error and no hazard, a register access is
neither, and a RAM access is a hazard by the latch alone. -/
theorem hazardsExactly : Obligations.HazardsExactly := by
  intro s a
  rw [← and_assoc, ← ram_target_iff, hostAccess]
  rcases ht : accessTarget a with _ | ⟨c⟩ | ⟨r, off, n⟩
  · simp
  · cases a.op <;> simp [csrAccess]
  · obtain ⟨rfl, rfl, -⟩ := accessTarget_eq_ram.1 ht
    simp [ramAccess_eq_hazard, accessBytes_eq]

end Sys2Proof.Machine
end

section
/-! PROOFS. The two resets (R310, R311) and the abort of a command in flight (R312). -/

namespace Sys2Proof.Machine

open Sys2Proof Sys2Proof.Safety

/-! ### The reset values of the registers -/

/-- What the registers read is decided by the CSRs, so that a reset gives them what they read right after reset. -/
theorem readCsr_resetCsrs (s : State) (c : Csr) : readCsr s.resetCsrs c = readCsr State.reset c := by
  cases c <;> rfl

/-- Right after reset every register reads the value of its row in R31's reset column. -/
theorem readCsr_reset (c : Csr) : readCsr State.reset c = resetValue (csrOffset c) := by
  cases c with
  | penTotal k => revert k; decide
  | alignPos i => revert i; decide
  | penRule k j => revert k j; decide
  | gen i => revert i; decide
  | synd j => revert j; decide
  | _ => decide

/-- A state that resetting the CSRs leaves as it is reads the reset column at every listed offset. -/
theorem readData_of_resetCsrs {t : State} (h : t.resetCsrs = t) {off : Nat} (hoff : csrListed off = true) :
    readData t off = some (resetValue off) := by
  obtain ⟨c, rfl⟩ := csrListed_iff.1 hoff
  have hidle : t.latch = none := by rw [← h]; rfl
  rw [readData_of_idle (.inl hidle), ← readCsr_reset, ← readCsr_resetCsrs t c, h]

/-- Settles O26: both ways to such a state leave every CSR at its reset value and the memory empty. -/
theorem hardResetState : Obligations.HardResetState := by
  rintro t (rfl | ⟨s, es, hs, ht⟩)
  · exact ⟨fun _ => readData_of_resetCsrs rfl, rfl, rfl, fun _ => rfl⟩
  · rw [step_of_hardReset hs] at ht
    cases ht
    exact ⟨fun _ => readData_of_resetCsrs rfl, rfl, rfl, fun _ => rfl⟩

/-! ### What the soft reset does to the RAMs -/

/-- The soft reset keeps a byte of RAM unless the abort's spans hold it (R311, R312). -/
theorem read_softReset (s : State) (a : Nat) :
    s.softReset.mem.read a = if inSpans (abortSpans s) a then none else s.mem.read a := Memory.read_erase _ _ _

/-- Settles O27: the write is the soft reset, which resets the CSRs and forgets at most the spans of an abort. -/
theorem softResetClearsEveryCsr : Obligations.SoftResetClearsEveryCsr := by
  intro s w hw
  have ht := hostAccess_ctrlWrite_of_srst s hw
  refine ⟨s.softReset.mem, ht, fun a => ?_, softReset_mem_of_idle, fun t h => ?_⟩
  · by_cases hl : s.latch = none
    · exact .inl (by rw [softReset_mem_of_idle hl])
    · rw [read_softReset]
      split
      · exact .inr ⟨hl, rfl⟩
      · exact .inl rfl
  · rw [ht] at h
    cases h
    exact ⟨rfl, fun _ => readData_of_resetCsrs rfl⟩

/-! ### The write set of the command in flight -/

theorem inSpans_nil (a : Nat) : inSpans [] a = false := rfl

theorem inSpans_cons (p : Span) (spans : List Span) (a : Nat) :
    inSpans (p :: spans) a = true ↔ Within a p.start p.len ∨ inSpans spans a = true := by
  simp [inSpans]

theorem inSpans_singleton (p : Span) (a : Nat) : inSpans [p] a = true ↔ Within a p.start p.len := by
  simp [inSpans_cons, inSpans_nil]

/-- The spans of a symbol hold its modules (R56, R85). -/
theorem inSpans_symbolSpans (sd a : Nat) : inSpans (symbolSpans sd) a = true ↔ InSymbol a sd := by
  simp only [inSpans, symbolSpans, List.any_map, List.any_eq_true, List.mem_range, Function.comp_apply,
    Bool.and_eq_true, decide_eq_true_eq, matAddr, matBase, matStride]
  refine exists_congr fun r => and_congr_right fun _ => ⟨fun h => ?_, ?_⟩
  · exact ⟨a - (0x8000 + 177 * r), by omega, by omega⟩
  · rintro ⟨c, hc, rfl⟩
    omega

/-- The write set of a command whose outcome is an error is empty (R312). -/
theorem inSpans_unlessError {r : CmdOutcome} {spans : List Span} {a : Nat} {code : Byte} {p : Prop}
    (hcode : errorCode r = code) (hp : inSpans spans a = true ↔ p) :
    inSpans (unlessError r spans) a = true ↔ code = 0x00 ∧ p := by
  subst hcode
  cases r with
  | error e => exact iff_of_false Bool.false_ne_true fun h => errNumber_ne_zero e h.1
  | ok s => simpa [unlessError] using hp
  | fault f => simpa [unlessError] using hp

/-- A byte is in the write set of a command exactly when none of the command's conditions holds and the command may
store to it (R281, R312). -/
theorem inSpans_writeSet {s : State} (hw : s.mem.wf) (i : Instr) (a : Nat) :
    inSpans (writeSet i s.operands s) a = true ↔
      firstCode (conditions i s.operands s) = 0x00 ∧ StoreSet i s.operands s a := by
  have hcode := errorCode_outcome hw i
  have hconfig : errorCode (checked (checkConfig s.operands) (.ok s)) = firstCode [(badConfig s.operands, 0x02)] :=
    errorCode_checked (checkConfig_eq _) fun _ => rfl
  cases i with
  | rsDiv => exact inSpans_unlessError hcode (inSpans_singleton _ a)
  | rsEncodeAll | interleave | mxFunc => exact inSpans_unlessError hconfig (inSpans_singleton _ a)
  | encode =>
    refine inSpans_unlessError hconfig ?_
    rw [inSpans_cons, inSpans_cons, inSpans_singleton]
    rfl
  | mxPlace | maskApply k | fmtWrite k | verWrite => exact inSpans_unlessError hcode (inSpans_symbolSpans _ a)
  | nop | clear | gfMul | gfExp | gfLog | gfInv | rsGen | rsSynd | maskEval | maskSearch | bchFmt | bchVer =>
    simp [writeSet, inSpans_nil, StoreSet]

/-- The bytes an abort makes unwritten: the write set of the latched command, if its word is legal and none of its
conditions holds (R312). -/
theorem inSpans_abortSpans {s : State} {o : Latch} (hw : s.mem.wf) (hl : s.latch = some o) (a : Nat) :
    inSpans (abortSpans s) a = true ↔ ∃ i, decode o.word = .ok i ∧ expectedCode o s = 0x00 ∧ StoreSet i o s a := by
  cases hd : decode o.word with
  | error e => simp [abortSpans, hl, hd, inSpans_nil]
  | ok i =>
    obtain rfl := operands_of_latch hl
    have hspans : abortSpans s = writeSet i s.operands s := by simp only [abortSpans, hl, hd]
    rw [hspans, inSpans_writeSet hw, expectedCode_of_decoded hd]
    simp

/-- Settles O28: the soft reset forgets the spans of the abort, which are the write set. -/
theorem abortForgetsTheWriteSet : Obligations.AbortForgetsTheWriteSet := by
  intro s o w t hw hl hb ht
  rw [hostAccess_ctrlWrite_of_srst s hb] at ht
  cases ht
  simp only [State.answer_mem, read_softReset]
  exact ⟨fun i a hd hcode hset => if_pos ((inSpans_abortSpans hw hl a).2 ⟨i, hd, hcode, hset⟩),
    fun a ha => if_neg fun h => ha ((inSpans_abortSpans hw hl a).1 h)⟩

end Sys2Proof.Machine
end
